-- ==== Sys2Proof/Word.lean ====
section
/-! DEFINITION. The word types of the block: bytes, 16-bit words, 12-bit addresses and 4-bit fields
(00_scope.md R7, 30_encoding.md R49), and the index of a general register (10_state.md R13). -/

namespace Sys2Proof

/-- A byte: a general register, a timer, a memory cell, the `nn` field (R7, R51). -/
abbrev Byte := BitVec 8

/-- A 16-bit word: `I`, `pc`, a stack entry, an instruction word (R7, R48). -/
abbrev Word := BitVec 16

/-- The 12-bit immediate `nnn` (R49, R51). -/
abbrev Addr := BitVec 12

/-- A 4-bit group of an instruction word (00_scope.md, glossary). -/
abbrev Nibble := BitVec 4

/-- The number of a general register, 0x0 to 0xF, or of a key (R13, R23). -/
abbrev RegIdx := Fin 16

/-- The number of VF, the flag register `V[15]` (R14). -/
abbrev VF : RegIdx := 15

/-- `a ++ b` of two bytes: `hi` in the high half (00_scope.md section 4; 20_memory.md R36). -/
abbrev joinBytes (hi lo : Byte) : Word := hi ++ lo

end Sys2Proof
end

