-- ==== Sys2Proof/Syntax.lean ====
section
/-! DEFINITION. The instructions: one constructor per row of spec/opcode_table.json, the 35 handlers of
30_encoding.md R54 in that order. -/

namespace Sys2Proof

/-- The 35 instructions. `x`, `y` are register numbers, `nn`, `nnn`, `n` the immediates of R49. The
constructors of CLS, RET and of the two register skips also carry `u`, the four bits of the word that the
decoder does not examine (R56): no meaning depends on them, but a condition records the whole word (R114),
and with them a word is its instruction and nothing is lost. -/
inductive Instr where
  /-- `0nnn`, the 35th handler (R73) -/
  | sys (nnn : Addr)
  /-- `0-E0` clear the display (R103) -/
  | cls (u : Nibble)
  /-- `0-EE` return from subroutine (R74) -/
  | ret (u : Nibble)
  /-- `1nnn` jump (R75) -/
  | jp (nnn : Addr)
  /-- `2nnn` call subroutine (R76) -/
  | call (nnn : Addr)
  /-- `3xnn` skip if Vx = nn (R77) -/
  | seXNN (x : RegIdx) (nn : Byte)
  /-- `4xnn` skip if Vx ≠ nn (R78) -/
  | sneXNN (x : RegIdx) (nn : Byte)
  /-- `5xy-` skip if Vx = Vy (R79) -/
  | seXY (x y : RegIdx) (u : Nibble)
  /-- `6xnn` load immediate (R83) -/
  | ldXNN (x : RegIdx) (nn : Byte)
  /-- `7xnn` add immediate, no flag (R84) -/
  | addXNN (x : RegIdx) (nn : Byte)
  /-- `8xy0` register copy (R85) -/
  | ldXY (x y : RegIdx)
  /-- `8xy1` (R86) -/
  | orXY (x y : RegIdx)
  /-- `8xy2` (R87) -/
  | andXY (x y : RegIdx)
  /-- `8xy3` (R88) -/
  | xorXY (x y : RegIdx)
  /-- `8xy4` add with carry (R89) -/
  | addXY (x y : RegIdx)
  /-- `8xy5` Vx - Vy (R90) -/
  | sub (x y : RegIdx)
  /-- `8xy6` shift right by one (R92) -/
  | shr (x y : RegIdx)
  /-- `8xy7` Vy - Vx (R91) -/
  | subn (x y : RegIdx)
  /-- `8xyE` shift left by one (R93) -/
  | shl (x y : RegIdx)
  /-- `9xy-` skip if Vx ≠ Vy (R80) -/
  | sneXY (x y : RegIdx) (u : Nibble)
  /-- `Annn` set I (R96) -/
  | ldI (nnn : Addr)
  /-- `Bnnn` jump to nnn + V0 (R81) -/
  | jpV0 (nnn : Addr)
  /-- `Cxnn` random byte AND nn (R94) -/
  | rnd (x : RegIdx) (nn : Byte)
  /-- `Dxyn` draw a sprite of n rows (R104) -/
  | drw (x y : RegIdx) (n : Fin 16)
  /-- `Ex9E` skip if the key is pressed (R108) -/
  | skp (x : RegIdx)
  /-- `ExA1` skip if the key is not pressed (R109) -/
  | sknp (x : RegIdx)
  /-- `Fx07` Vx = DT (R110) -/
  | ldXDT (x : RegIdx)
  /-- `Fx0A` wait for a key (R111) -/
  | ldXK (x : RegIdx)
  /-- `Fx15` DT = Vx (R112) -/
  | ldDTX (x : RegIdx)
  /-- `Fx18` ST = Vx (R113) -/
  | ldSTX (x : RegIdx)
  /-- `Fx1E` I = I + Vx (R97) -/
  | addIX (x : RegIdx)
  /-- `Fx29` I = 5 * Vx (R98) -/
  | ldFX (x : RegIdx)
  /-- `Fx33` store the decimal digits of Vx (R99) -/
  | ldBX (x : RegIdx)
  /-- `Fx55` store V0 to Vx (R100) -/
  | ldMemX (x : RegIdx)
  /-- `Fx65` load V0 to Vx (R101) -/
  | ldXMem (x : RegIdx)
  deriving DecidableEq, Repr

end Sys2Proof
end

