-- ==== Sys2Proof/WellFormed.lean ====
section
/-! DEFINITION. Which terms of `Instr` stand for words of the machine. The field types already bound every
operand (30_encoding.md R51, R52: every value of x, y, n, nn and nnn is legal); the one check left is that
SYS is the catch-all of family 0 (R59). -/

namespace Sys2Proof

/-- SYS `0nnn` stands for the words whose low byte is neither 0xE0 (CLS) nor 0xEE (RET) (R73); every other
term is well formed. -/
def Instr.wf : Instr → Bool
  | .sys nnn => nnn.extractLsb' 0 8 != 0xE0#8 && nnn.extractLsb' 0 8 != 0xEE#8
  | .cls _ | .ret _ | .jp _ | .call _ => true
  | .seXNN _ _ | .sneXNN _ _ | .seXY _ _ _ | .sneXY _ _ _ => true
  | .ldXNN _ _ | .addXNN _ _ | .ldXY _ _ => true
  | .orXY _ _ | .andXY _ _ | .xorXY _ _ => true
  | .addXY _ _ | .sub _ _ | .subn _ _ | .shr _ _ | .shl _ _ => true
  | .ldI _ | .jpV0 _ | .rnd _ _ | .drw _ _ _ => true
  | .skp _ | .sknp _ | .ldXDT _ | .ldXK _ | .ldDTX _ | .ldSTX _ => true
  | .addIX _ | .ldFX _ | .ldBX _ | .ldMemX _ | .ldXMem _ => true

end Sys2Proof
end

