-- ==== Sys2Proof/Decode.lean ====
section
/-! DEFINITION. The decoder of 30_encoding.md R53, total on words and on bytes, the encoder written from the
same tables (R50, R53), and the rows of spec/opcode_table.json as data. The opcode values are the spec's
general knowledge (92_eei_decisions.md D3) and the bits it leaves unexamined are its decision D2: UNVERIFIED,
unsafe, log entries 1 and 6. -/

namespace Sys2Proof

/-- Why the decoder gives no instruction. -/
inductive Reject where
  /-- the word decodes to UNKNOWN (R55) -/
  | unknownOpcode (w : Word)
  /-- fewer than the two bytes of an instruction are given (R48) -/
  | truncated
  deriving DecidableEq, Repr

/-! ### The fields of a word (R49) -/

/-- `op = w[15:12]`, the family -/
def fieldOp (w : Word) : Nibble := w.extractLsb' 12 4

/-- bits 11 to 8, as bits -/
def fieldHi (w : Word) : Nibble := w.extractLsb' 8 4

/-- `x = w[11:8]` -/
def fieldX (w : Word) : RegIdx := (fieldHi w).toFin

/-- `y = w[7:4]` -/
def fieldY (w : Word) : RegIdx := (w.extractLsb' 4 4).toFin

/-- bits 3 to 0, as bits -/
def fieldLo (w : Word) : Nibble := w.extractLsb' 0 4

/-- `n = w[3:0]` -/
def fieldN (w : Word) : Fin 16 := (fieldLo w).toFin

/-- `nn = w[7:0]` -/
def fieldNN (w : Word) : Byte := w.extractLsb' 0 8

/-- `nnn = w[11:0]` -/
def fieldNNN (w : Word) : Addr := w.extractLsb' 0 12

/-! ### The decoder (R53) -/

/-- Family 0 is split on the low byte; what is neither CLS nor RET is SYS. -/
def decode0 (w : Word) : Instr :=
  if fieldNN w = 0xE0#8 then .cls (fieldHi w)
  else if fieldNN w = 0xEE#8 then .ret (fieldHi w)
  else .sys (fieldNNN w)

/-- Family 8 is split on the low nibble. -/
def decode8 (w : Word) : Except Reject Instr :=
  match fieldLo w with
  | 0x0#4 => .ok (.ldXY (fieldX w) (fieldY w))
  | 0x1#4 => .ok (.orXY (fieldX w) (fieldY w))
  | 0x2#4 => .ok (.andXY (fieldX w) (fieldY w))
  | 0x3#4 => .ok (.xorXY (fieldX w) (fieldY w))
  | 0x4#4 => .ok (.addXY (fieldX w) (fieldY w))
  | 0x5#4 => .ok (.sub (fieldX w) (fieldY w))
  | 0x6#4 => .ok (.shr (fieldX w) (fieldY w))
  | 0x7#4 => .ok (.subn (fieldX w) (fieldY w))
  | 0xE#4 => .ok (.shl (fieldX w) (fieldY w))
  | _ => .error (.unknownOpcode w)

/-- Family E is split on the low byte. -/
def decodeE (w : Word) : Except Reject Instr :=
  if fieldNN w = 0x9E#8 then .ok (.skp (fieldX w))
  else if fieldNN w = 0xA1#8 then .ok (.sknp (fieldX w))
  else .error (.unknownOpcode w)

/-- Family F is split on the low byte. -/
def decodeF (w : Word) : Except Reject Instr :=
  if fieldNN w = 0x07#8 then .ok (.ldXDT (fieldX w))
  else if fieldNN w = 0x0A#8 then .ok (.ldXK (fieldX w))
  else if fieldNN w = 0x15#8 then .ok (.ldDTX (fieldX w))
  else if fieldNN w = 0x18#8 then .ok (.ldSTX (fieldX w))
  else if fieldNN w = 0x1E#8 then .ok (.addIX (fieldX w))
  else if fieldNN w = 0x29#8 then .ok (.ldFX (fieldX w))
  else if fieldNN w = 0x33#8 then .ok (.ldBX (fieldX w))
  else if fieldNN w = 0x55#8 then .ok (.ldMemX (fieldX w))
  else if fieldNN w = 0x65#8 then .ok (.ldXMem (fieldX w))
  else .error (.unknownOpcode w)

/-- One of the 35 handlers, or UNKNOWN (R53): the top nibble, and in families 0, 8, E and F the low byte or
low nibble. The sixteen lines are all the values of four bits: the line after them is never reached, and Lean asks
for it. -/
def decode (w : Word) : Except Reject Instr :=
  match fieldOp w with
  | 0x0#4 => .ok (decode0 w)
  | 0x1#4 => .ok (.jp (fieldNNN w))
  | 0x2#4 => .ok (.call (fieldNNN w))
  | 0x3#4 => .ok (.seXNN (fieldX w) (fieldNN w))
  | 0x4#4 => .ok (.sneXNN (fieldX w) (fieldNN w))
  | 0x5#4 => .ok (.seXY (fieldX w) (fieldY w) (fieldLo w))
  | 0x6#4 => .ok (.ldXNN (fieldX w) (fieldNN w))
  | 0x7#4 => .ok (.addXNN (fieldX w) (fieldNN w))
  | 0x8#4 => decode8 w
  | 0x9#4 => .ok (.sneXY (fieldX w) (fieldY w) (fieldLo w))
  | 0xA#4 => .ok (.ldI (fieldNNN w))
  | 0xB#4 => .ok (.jpV0 (fieldNNN w))
  | 0xC#4 => .ok (.rnd (fieldX w) (fieldNN w))
  | 0xD#4 => .ok (.drw (fieldX w) (fieldY w) (fieldN w))
  | 0xE#4 => decodeE w
  | 0xF#4 => decodeF w
  | _ => .error (.unknownOpcode w)

/-- An instruction is two bytes, the high byte first (R36, R48); the rest of the bytes is handed back. -/
def decodeBytes : List Byte → Except Reject (Instr × List Byte)
  | hi :: lo :: rest => (decode (joinBytes hi lo)).map (·, rest)
  | [_] | [] => .error .truncated

/-! ### The encoder -/

/-- A register number or count as the four bits of its field. -/
def nib (x : Fin 16) : Nibble := BitVec.ofFin x

/-- Format `N`: op, nnn (R50) -/
def wordN (op : Nibble) (nnn : Addr) : Word := op ++ nnn

/-- Formats `XNN` and `X`: op, x, nn (R50) -/
def wordXNN (op : Nibble) (x : RegIdx) (nn : Byte) : Word := op ++ nib x ++ nn

/-- Formats `XY` and `XYN`: op, x, y and the low nibble (R50) -/
def wordXYN (op : Nibble) (x y : RegIdx) (n : Nibble) : Word := op ++ nib x ++ nib y ++ n

/-- Format `Z`: family 0, four bits not examined, the low byte (R50) -/
def wordZ (u : Nibble) (nn : Byte) : Word := 0x0#4 ++ u ++ nn

/-- The word of an instruction (R50, R53). -/
def encode : Instr → Word
  | .sys nnn => wordN 0x0 nnn
  | .cls u => wordZ u 0xE0
  | .ret u => wordZ u 0xEE
  | .jp nnn => wordN 0x1 nnn
  | .call nnn => wordN 0x2 nnn
  | .seXNN x nn => wordXNN 0x3 x nn
  | .sneXNN x nn => wordXNN 0x4 x nn
  | .seXY x y u => wordXYN 0x5 x y u
  | .ldXNN x nn => wordXNN 0x6 x nn
  | .addXNN x nn => wordXNN 0x7 x nn
  | .ldXY x y => wordXYN 0x8 x y 0x0
  | .orXY x y => wordXYN 0x8 x y 0x1
  | .andXY x y => wordXYN 0x8 x y 0x2
  | .xorXY x y => wordXYN 0x8 x y 0x3
  | .addXY x y => wordXYN 0x8 x y 0x4
  | .sub x y => wordXYN 0x8 x y 0x5
  | .shr x y => wordXYN 0x8 x y 0x6
  | .subn x y => wordXYN 0x8 x y 0x7
  | .shl x y => wordXYN 0x8 x y 0xE
  | .sneXY x y u => wordXYN 0x9 x y u
  | .ldI nnn => wordN 0xA nnn
  | .jpV0 nnn => wordN 0xB nnn
  | .rnd x nn => wordXNN 0xC x nn
  | .drw x y n => wordXYN 0xD x y (nib n)
  | .skp x => wordXNN 0xE x 0x9E
  | .sknp x => wordXNN 0xE x 0xA1
  | .ldXDT x => wordXNN 0xF x 0x07
  | .ldXK x => wordXNN 0xF x 0x0A
  | .ldDTX x => wordXNN 0xF x 0x15
  | .ldSTX x => wordXNN 0xF x 0x18
  | .addIX x => wordXNN 0xF x 0x1E
  | .ldFX x => wordXNN 0xF x 0x29
  | .ldBX x => wordXNN 0xF x 0x33
  | .ldMemX x => wordXNN 0xF x 0x55
  | .ldXMem x => wordXNN 0xF x 0x65

/-! ### The opcode table (R59) -/

/-- A word matches a row when `w AND mask = pattern` (R59). -/
structure TableRow where
  pattern : Word
  mask : Word
  deriving DecidableEq, Repr

def TableRow.hits (r : TableRow) (w : Word) : Bool := w &&& r.mask == r.pattern

/-- The row of spec/opcode_table.json an instruction stands for: its `match` and `mask`. -/
def tableRow : Instr → TableRow
  | .sys _ => ⟨0x0000, 0xF000⟩
  | .cls _ => ⟨0x00E0, 0xF0FF⟩
  | .ret _ => ⟨0x00EE, 0xF0FF⟩
  | .jp _ => ⟨0x1000, 0xF000⟩
  | .call _ => ⟨0x2000, 0xF000⟩
  | .seXNN _ _ => ⟨0x3000, 0xF000⟩
  | .sneXNN _ _ => ⟨0x4000, 0xF000⟩
  | .seXY _ _ _ => ⟨0x5000, 0xF000⟩
  | .ldXNN _ _ => ⟨0x6000, 0xF000⟩
  | .addXNN _ _ => ⟨0x7000, 0xF000⟩
  | .ldXY _ _ => ⟨0x8000, 0xF00F⟩
  | .orXY _ _ => ⟨0x8001, 0xF00F⟩
  | .andXY _ _ => ⟨0x8002, 0xF00F⟩
  | .xorXY _ _ => ⟨0x8003, 0xF00F⟩
  | .addXY _ _ => ⟨0x8004, 0xF00F⟩
  | .sub _ _ => ⟨0x8005, 0xF00F⟩
  | .shr _ _ => ⟨0x8006, 0xF00F⟩
  | .subn _ _ => ⟨0x8007, 0xF00F⟩
  | .shl _ _ => ⟨0x800E, 0xF00F⟩
  | .sneXY _ _ _ => ⟨0x9000, 0xF000⟩
  | .ldI _ => ⟨0xA000, 0xF000⟩
  | .jpV0 _ => ⟨0xB000, 0xF000⟩
  | .rnd _ _ => ⟨0xC000, 0xF000⟩
  | .drw _ _ _ => ⟨0xD000, 0xF000⟩
  | .skp _ => ⟨0xE09E, 0xF0FF⟩
  | .sknp _ => ⟨0xE0A1, 0xF0FF⟩
  | .ldXDT _ => ⟨0xF007, 0xF0FF⟩
  | .ldXK _ => ⟨0xF00A, 0xF0FF⟩
  | .ldDTX _ => ⟨0xF015, 0xF0FF⟩
  | .ldSTX _ => ⟨0xF018, 0xF0FF⟩
  | .addIX _ => ⟨0xF01E, 0xF0FF⟩
  | .ldFX _ => ⟨0xF029, 0xF0FF⟩
  | .ldBX _ => ⟨0xF033, 0xF0FF⟩
  | .ldMemX _ => ⟨0xF055, 0xF0FF⟩
  | .ldXMem _ => ⟨0xF065, 0xF0FF⟩

/-! ### The interface's reading of a table word -/

/-- The two bytes of the instruction whose bits, numbered as spec/opcode_table.json numbers them, are the low
`nbits` bits of `w`, in the order the hardware stores them: the high byte at the lower address (R36). -/
def tableBytes (nbits w : Nat) : Byte × Byte :=
  (BitVec.ofNat 8 (w % 2 ^ nbits / 256), BitVec.ofNat 8 (w % 2 ^ nbits))

/-- The instruction the decoder reads from a table word. -/
def decodeTableWord (nbits w : Nat) : Option Instr :=
  match decodeBytes [(tableBytes nbits w).1, (tableBytes nbits w).2] with
  | .ok (i, _) => some i
  | .error _ => none

end Sys2Proof
end

