-- ==== Sys2Proof/Machine/Font.lean ====
section
/-! DEFINITION. The default bytes of the built-in font (10_state.md R27), and what a byte of memory that
nothing has written reads as: the contents reset gives it (70_reset_and_hazards.md R137). -/

namespace Sys2Proof.Machine

/-- The glyphs of the digits 0 to 7, five rows each (R27). UNVERIFIED: the spec takes the bytes from general
knowledge (92_eei_decisions.md D14); unsafe for claims about pixels; log entry 5. -/
def glyphs0to7 : List Byte :=
  [0xF0, 0x90, 0x90, 0x90, 0xF0] ++ [0x20, 0x60, 0x20, 0x20, 0x70] ++
  [0xF0, 0x10, 0xF0, 0x80, 0xF0] ++ [0xF0, 0x10, 0xF0, 0x10, 0xF0] ++
  [0x90, 0x90, 0xF0, 0x10, 0x10] ++ [0xF0, 0x80, 0xF0, 0x10, 0xF0] ++
  [0xF0, 0x80, 0xF0, 0x90, 0xF0] ++ [0xF0, 0x10, 0x20, 0x40, 0x40]

/-- The glyphs of the digits 8 to F, five rows each (R27). Mark as for `glyphs0to7`. -/
def glyphs8toF : List Byte :=
  [0xF0, 0x90, 0xF0, 0x90, 0xF0] ++ [0xF0, 0x90, 0xF0, 0x10, 0xF0] ++
  [0xF0, 0x90, 0xF0, 0x90, 0x90] ++ [0xE0, 0x90, 0xE0, 0x90, 0xE0] ++
  [0xF0, 0x80, 0x80, 0x80, 0xF0] ++ [0xE0, 0x90, 0x90, 0x90, 0xE0] ++
  [0xF0, 0x80, 0xF0, 0x80, 0xF0] ++ [0xF0, 0x80, 0xF0, 0x80, 0x80]

/-- The default of the parameter `FONT`: 80 bytes, the glyph of digit d at 5*d (R27, R8). -/
def defaultFont : Vector Byte 80 := ⟨(glyphs0to7 ++ glyphs8toF).toArray, rfl⟩

/-- What address `a` holds after reset under the default font: the font at 0x000 to 0x04F and 0x00 in
every other byte (R11, R40). It is what an address that memory does not list reads as. -/
def resetByte (a : Nat) : Byte := if h : a < 80 then defaultFont[a] else 0

end Sys2Proof.Machine
end

