-- ==== Sys2Proof/Config.lean ====
section
/-! DEFINITION. What an implementation fixes (00_scope.md R8) and the one free value of the machine. -/

namespace Sys2Proof

/-- The configuration parameters of 00_scope.md R8, with their defaults. The spec takes them as arguments
of a model; `exec` takes only an instruction and a state, so State carries them, no step and no verb
changes them, and a claim about every state is a claim about every value of them (DESIGN CHOICE, safe; log
entry 2). -/
structure Params where
  /-- Shifts read Vy (true) or work on Vx alone (92_eei_decisions.md D6). -/
  shiftReadsVy : Bool := false
  /-- `Fx55` and `Fx65` add x + 1 to I (D7). -/
  loadstoreAdvancesI : Bool := false
  /-- `0nnn` reports UnknownOpcode (D4). -/
  sysReportsUnknown : Bool := false
  /-- The 80 bytes that reset writes at 0x000 (D14). -/
  font : Vector Byte 80 := Machine.defaultFont
  deriving DecidableEq, Repr

/-- The `k`-th draw of the external entropy source when the host hands none in with the step: a FREE VALUE,
nothing constrains it (42_alu.md R94, 92_eei_decisions.md D16; log entry 3). -/
opaque Config.entropy : Nat → Byte

end Sys2Proof
end

