-- ==== Sys2Proof/Machine/State.lean ====
section
/-! DEFINITION. The state of the block (10_state.md R11), the reasons a step can stop, and the state after
reset (70_reset_and_hazards.md R137). -/

namespace Sys2Proof.Machine

/-- The conditions a step can report (60_exceptions.md R114). -/
inductive Cond where
  | none
  | unknownOpcode
  | stackOverflow
  | stackUnderflow
  | memoryOutOfBounds
  deriving DecidableEq, Repr

/-- The access kind a condition records (R24). -/
inductive AccessKind where
  | none
  | fetch
  | data
  deriving DecidableEq, Repr

/-- The record `last_info` (R24): the fetch address, the instruction word (0 when the fetch failed), the
access kind, and the lowest out-of-range address. -/
structure CondInfo where
  pc : Word
  word : Word
  kind : AccessKind
  addr : Nat
  deriving DecidableEq, Repr

/-- The memory of R30: the bytes that differ from what reset leaves there, addresses strictly rising. -/
abbrev Memory := List Host.Cell

/-- The grid `disp[y][x]`: 32 rows of 64 cells; a true cell is lit (R25). -/
abbrev Display := Vector (Vector Bool 64) 32

/-- Every element of R11, and three of the model's own, which come last. -/
structure State where
  /-- 4096 bytes of memory (R27, R30) -/
  mem : Memory
  /-- the general registers V0 to VF (R13) -/
  V : Vector Byte 16
  /-- the index register (R17) -/
  I : Word
  /-- the program counter (R18) -/
  pc : Word
  /-- the return stack (R20) -/
  stack : Vector Word 16
  /-- the number of stack entries in use, 0 to 16 (R21) -/
  sp : Fin 17
  /-- the delay timer (R22) -/
  DT : Byte
  /-- the sound timer (R22) -/
  ST : Byte
  /-- the key states; true is pressed (R23) -/
  key : Vector Bool 16
  /-- the display surface (R25) -/
  disp : Display
  /-- the display's dirty flag (R26) -/
  dirty : Bool
  /-- NONE while running, else the fatal condition that halted the block (R24) -/
  halt : Cond
  /-- the condition the most recent step reported (R24) -/
  lastCond : Cond
  /-- the record of the most recent condition other than NONE (R24) -/
  lastInfo : CondInfo
  /-- bit c - 1 is set once condition c has been reported (R24) -/
  seen : BitVec 4
  /-- the model's own: the configuration parameters of R8 (log entry 2) -/
  params : Params
  /-- the model's own: the entropy byte the host hands in with the step verb (R60, R130), or none, and then
  the draw is free (log entry 3) -/
  drawIn : Option Byte
  /-- the model's own: how many draws have been taken; it picks the next free one (log entry 3) -/
  drawCount : Nat
  deriving DecidableEq, Repr

/-- No step of this block ends in a fault, so there is no reason to name: the spec gives every condition as a
state change, and a step of the halted block changes nothing (R61, R115 to R118). Safe: nothing is said to
stop that goes on. What counts as a failed run is in Sys2Proof/Safety.lean (log entry 4). -/
inductive Fault where
  deriving DecidableEq, Repr

/-- Why an instruction has no meaning. -/
inductive Refusal where
  /-- Raised only by an arm of `exec` whose instruction has no meaning yet; there is none left. Safe. -/
  | notModelled (mnemonic : String)
  deriving DecidableEq, Repr

/-- The machine right after reset under the default parameters: every field at the value of R11 and R137. -/
def State.reset : State where
  mem := []
  V := Vector.replicate 16 0
  I := 0
  pc := 0x200
  stack := Vector.replicate 16 0
  sp := 0
  DT := 0
  ST := 0
  key := Vector.replicate 16 false
  disp := Vector.replicate 32 (Vector.replicate 64 false)
  dirty := false
  halt := .none
  lastCond := .none
  lastInfo := { pc := 0, word := 0, kind := .none, addr := 0 }
  seen := 0
  params := {}
  drawIn := none
  drawCount := 0

end Sys2Proof.Machine
end

