-- ==== Sys2Proof/Machine/Ops.lean ====
section
/-! DEFINITION. The named operations every meaning is written in: memory, registers, the stack, the display
cell, fetch, the end of a step, and raising a condition. The block has no return from a condition (R121). -/

namespace Sys2Proof.Machine

/-! ### Memory (20_memory.md) -/

/-- `MemRead(a, 1)` (R33, R39): the byte listed for `a`, else what reset left there. The range check stands
in front of every access (R34), so `a` is at most 0xFFF wherever a step reads. -/
def Memory.read : Memory → Nat → Byte
  | [], a => resetByte a
  | (k, v) :: m, a => if k = a then v else Memory.read m a

/-- Puts a cell in its place in a list of rising addresses. -/
def Memory.insertCell (a : Nat) (b : Byte) : Memory → Memory
  | [] => [(a, b)]
  | (k, v) :: m => if a < k then (a, b) :: (k, v) :: m else (k, v) :: Memory.insertCell a b m

/-- `MemWrite(a, 1, b)` (R33, R39): afterwards `a` holds `b` and every other byte is as before. Writing what
reset left at `a` takes the entry out, so equal memories are equal lists. -/
def Memory.write (m : Memory) (a : Nat) (b : Byte) : Memory :=
  let rest := m.filter (fun c => c.1 != a)
  if b = resetByte a then rest else Memory.insertCell a b rest

/-- Reads `n` bytes at `a`, a + 1, … (R37). -/
def Memory.readBytes (m : Memory) : Nat → Nat → List Byte
  | _, 0 => []
  | a, n + 1 => m.read a :: m.readBytes (a + 1) n

/-- Writes bytes at `a`, a + 1, … in rising order (R37, R43). -/
def Memory.writeBytes (m : Memory) : Nat → List Byte → Memory
  | _, [] => m
  | a, b :: bs => (m.write a b).writeBytes (a + 1) bs

/-- Addresses rise strictly. -/
def Memory.sorted : Memory → Bool
  | [] => true
  | [_] => true
  | (k, _) :: (k', v') :: m => decide (k < k') && Memory.sorted ((k', v') :: m)

/-- The canonical form: addresses strictly rising and inside 0x000 to 0xFFF (R30), and no entry that says
what an unlisted address reads as. -/
def Memory.wf (m : Memory) : Bool :=
  m.sorted && m.all (fun c => decide (c.1 < 4096) && c.2 != resetByte c.1)

/-! ### General registers (R13) -/

/-- `V[x]` -/
def State.getV (s : State) (x : RegIdx) : Byte := s.V.get x

/-- `V[x] <- b`; VF is an ordinary register here (R14). -/
def State.setV (s : State) (x : RegIdx) (b : Byte) : State := { s with V := s.V.set x.val b x.isLt }

/-! ### The other registers (R17, R22) -/

/-- `I <- v` -/
def State.setI (s : State) (v : Word) : State := { s with I := v }

/-- `DT <- b` -/
def State.setDT (s : State) (b : Byte) : State := { s with DT := b }

/-- `ST <- b` -/
def State.setST (s : State) (b : Byte) : State := { s with ST := b }

/-- Stores bytes in memory at `a`, a + 1, … (R37). -/
def State.store (s : State) (a : Nat) (bs : List Byte) : State := { s with mem := s.mem.writeBytes a bs }

/-! ### The stack (R21) -/

/-- `stack[sp] <- a`, then `sp <- sp + 1`; nothing when all 16 entries are in use. -/
def State.push (s : State) (a : Word) : Option State :=
  if h : s.sp.val < 16 then
    some { s with stack := s.stack.set s.sp.val a h, sp := ⟨s.sp.val + 1, by omega⟩ }
  else none

/-- `sp <- sp - 1`, then reads `stack[sp]`, which keeps its value; nothing when no entry is in use. -/
def State.pop (s : State) : Option (Word × State) :=
  if h : s.sp.val = 0 then none
  else some (s.stack.get ⟨s.sp.val - 1, by omega⟩, { s with sp := ⟨s.sp.val - 1, by omega⟩ })

/-! ### Display cells (R25) -/

/-- `disp[y][x]` -/
def Display.cell (d : Display) (y : Fin 32) (x : Fin 64) : Bool := (d.get y).get x

/-- `disp[y][x] <- b` -/
def Display.setCell (d : Display) (y : Fin 32) (x : Fin 64) (b : Bool) : Display :=
  d.set y.val ((d.get y).set x.val b x.isLt) y.isLt

/-- Every cell false. -/
def Display.clear : Display := Vector.replicate 32 (Vector.replicate 64 false)

/-- The grid becomes `d`, and the display is marked dirty, changed or not (R26, R103, R104). -/
def State.show (s : State) (d : Display) : State := { s with disp := d, dirty := true }

/-! ### Conditions (60_exceptions.md) -/

/-- The numeric code of a condition (R114). -/
def Cond.code : Cond → Nat
  | .none => 0
  | .unknownOpcode => 1
  | .stackOverflow => 2
  | .stackUnderflow => 3
  | .memoryOutOfBounds => 4

/-- The bit of `seen` that condition `c` sets: bit `code - 1` (R24). -/
def Cond.seenBit : Cond → BitVec 4
  | .none => 0b0000
  | .unknownOpcode => 0b0001
  | .stackOverflow => 0b0010
  | .stackUnderflow => 0b0100
  | .memoryOutOfBounds => 0b1000

/-- Which conditions halt the block: the stack conditions, and MemoryOutOfBounds of a fetch (R114). -/
def Cond.fatal : Cond → AccessKind → Bool
  | .none, _ => false
  | .unknownOpcode, _ => false
  | .stackOverflow, _ => true
  | .stackUnderflow, _ => true
  | .memoryOutOfBounds, k => k == .fetch

/-- RAISING A CONDITION, the one way a step reports one. It is recorded in the status elements (R115); a fatal
one also halts the block with pc at the instruction's own address (R116), and after any other the base advance
stands and the next step goes on (R117). There is no vector and nothing is saved elsewhere (R120). Every
meaning raises before its first write (R70), so nothing else of the state has changed. -/
def State.raise (s : State) (c : Cond) (info : CondInfo) : State :=
  let t := { s with lastCond := c, lastInfo := info, seen := s.seen ||| c.seenBit }
  if c.fatal info.kind then { t with halt := c, pc := info.pc } else t

/-- `last_cond <- NONE` (R67, R115). -/
def State.quiet (s : State) : State := { s with lastCond := .none }

/-- The end of an instruction that raised nothing (R69). -/
def done (s : State) : Host.Outcome State Fault Refusal := .next s.quiet

/-! ### Fetch and the program counter (40_cycle.md) -/

/-- The word at pc, the high byte at the lower address (R36, R63). -/
def State.fetchWord (s : State) : Word :=
  joinBytes (s.mem.read s.pc.toNat) (s.mem.read (s.pc.toNat + 1))

/-- The fetch reaches past 0xFFF (R63). -/
def State.fetchOutOfRange (s : State) : Bool := 0xFFF < s.pc.toNat + 1

/-- The fatal end of a step whose fetch is out of range (R35, R63, R69). -/
def State.raiseFetch (s : State) : State :=
  s.raise .memoryOutOfBounds
    { pc := s.pc, word := 0, kind := .fetch, addr := max s.pc.toNat 0x1000 }

/-- `pc <- (pc + 2) mod 2^16`: the base advance (R64), and a skip on top of it (R66). -/
def State.advance (s : State) : State := { s with pc := s.pc + 2 }

/-- `pc <- target` (R66). -/
def State.jumpTo (s : State) (target : Word) : State := { s with pc := target }

/-- `p`, the address the instruction was fetched from, as a meaning finds it: pc is p + 2 on entry (R18, R62). -/
def State.instrAddr (s : State) : Word := s.pc - 2

/-- What a condition with no memory access records: `kind = NONE, addr = 0` (R114). -/
def State.plainInfo (s : State) (w : Word) : CondInfo :=
  { pc := s.instrAddr, word := w, kind := .none, addr := 0 }

/-- A word that decodes to UNKNOWN, after the base advance (R68). -/
def State.raiseUnknown (s : State) (w : Word) : State := s.raise .unknownOpcode (s.plainInfo w)

end Sys2Proof.Machine
end

