-- ==== Sys2Proof/Machine/Flags.lean ====
section
/-! DEFINITION. The flag computations: for each flag-writing operation its result byte and the byte VF receives
(10_state.md R15, 42_alu.md R82), computed from the operands as read at the start. -/

namespace Sys2Proof.Machine

/-- A flag as VF holds it: 1 or 0. -/
def flagByte (b : Bool) : Byte := if b then 1 else 0

/-- The 9-bit sum: low 8 bits, and 1 when it passes 255 (R89). -/
def addCarry (a b : Byte) : Byte × Byte :=
  (BitVec.ofNat 8 (a.toNat + b.toNat), flagByte (decide (255 < a.toNat + b.toNat)))

/-- a - b modulo 256, and 1 when a ≥ b, no borrow (R90, R91). -/
def subNoBorrow (a b : Byte) : Byte × Byte := (a - b, flagByte (decide (b.toNat ≤ a.toNat)))

/-- Logical shift right by one, and the bit shifted out, bit 0 (R92). -/
def shiftRight1 (a : Byte) : Byte × Byte := (a >>> 1, flagByte (a.getLsbD 0))

/-- Shift left by one modulo 256, and the bit shifted out, bit 7 (R93). -/
def shiftLeft1 (a : Byte) : Byte × Byte := (a <<< 1, flagByte (a.getLsbD 7))

/-- A bitwise result, and the flag 0 that always follows it (R86 to R88). -/
def logicClear (r : Byte) : Byte × Byte := (r, 0)

/-- `V[x] <- result`, then `V[15] <- flag`: with x = 0xF the flag stays (R82, R95). -/
def State.setFlagged (s : State) (x : RegIdx) (r : Byte × Byte) : State := (s.setV x r.1).setV VF r.2

end Sys2Proof.Machine
end

