-- ==== Sys2Proof/Machine/Operands.lean ====
section
/-! DEFINITION. The operand forms: immediates, the shift source, the selected key, the entropy draw, and the one
addressing mode, index plus constant, with its range check. -/

namespace Sys2Proof.Machine

/-- `zext_16(nnn)` (30_encoding.md R51) -/
def zextAddr (nnn : Addr) : Word := nnn.setWidth 16

/-- `zext_16(V[x])` (00_scope.md section 4) -/
def zextByte (b : Byte) : Word := b.setWidth 16

/-- The register a shift reads: Vy when SHIFT_READS_VY, else Vx (42_alu.md R92, R93). -/
def State.shiftSource (s : State) (x y : RegIdx) : Byte :=
  if s.params.shiftReadsVy then s.getV y else s.getV x

/-- The key a key test selects: the low nibble of Vx (45_keypad_timers.md R107). -/
def State.keySelected (s : State) (x : RegIdx) : Bool :=
  s.key.get ((s.getV x).extractLsb' 0 4).toFin

/-- The least k with `key[k]` true (R111). -/
def State.firstKey (s : State) : Option RegIdx := (List.finRange 16).find? (fun k => s.key.get k)

/-- The entropy draw of this step: the byte the host handed in, else a free value (R94, R130). -/
def State.entropyDraw (s : State) : Byte := s.drawIn.getD (Config.entropy s.drawCount)

/-- Taking a draw moves to the next free one (R130). -/
def State.drawTaken (s : State) : State := { s with drawCount := s.drawCount + 1 }

/-- The address of data byte k: `I + k`, an unbounded natural (20_memory.md R33). -/
def State.dataAddr (s : State) (k : Nat) : Nat := s.I.toNat + k

/-- For `len` bytes from I: the lowest out-of-range address, if there is one (R34; R99 to R101, R104). -/
def State.rangeFault (s : State) (len : Nat) : Option Nat :=
  if 0 < len ∧ 0xFFF < s.dataAddr (len - 1) then some (max s.I.toNat 0x1000) else none

/-- An instruction that accesses `len` bytes from I checks them all first: out of range, it has no effect but
the recorded condition (R34, R117); in range, it ends with `effect`. -/
def State.accessing (s : State) (len : Nat) (w : Word) (effect : State) :
    Host.Outcome State Fault Refusal :=
  match s.rangeFault len with
  | some a => .next (s.raise .memoryOutOfBounds { pc := s.instrAddr, word := w, kind := .data, addr := a })
  | none => done effect

/-- `if LOADSTORE_ADVANCES_I: I <- (I + n) mod 2^16` (43_index_memory.md R100, R101). -/
def State.advanceI (s : State) (n : Nat) : State :=
  if s.params.loadstoreAdvancesI then s.setI (s.I + BitVec.ofNat 16 n) else s

/-- `V0 … Vx` in rising order (R100). -/
def State.regsUpTo (s : State) (x : RegIdx) : List Byte := s.V.toList.take (x.val + 1)

/-- `V[k] <- MemRead(I + k, 1)` for k in 0..x; the registers above x keep their values (R101). -/
def State.loadRegs (s : State) (x : RegIdx) : State :=
  { s with V := Vector.ofFn fun k => if k ≤ x then s.mem.read (s.dataAddr k.val) else s.getV k }

/-- The hundreds, tens and units of a byte (R99). -/
def bcdDigits (b : Byte) : List Byte :=
  [BitVec.ofNat 8 (b.toNat / 100), BitVec.ofNat 8 (b.toNat / 10 % 10), BitVec.ofNat 8 (b.toNat % 10)]

end Sys2Proof.Machine
end

