-- ==== Sys2Proof/Machine/Alu.lean ====
section
/-! DEFINITION. Register loads, arithmetic, logic, shifts and the random byte (42_alu.md). None changes pc, none
accesses memory and none raises a condition. -/

namespace Sys2Proof.Machine

/-- R83. -/
def execLdXNN (x : RegIdx) (nn : Byte) (s : State) : Host.Outcome State Fault Refusal := done (s.setV x nn)

/-- R84: modulo 256, no flag. -/
def execAddXNN (x : RegIdx) (nn : Byte) (s : State) : Host.Outcome State Fault Refusal :=
  done (s.setV x (s.getV x + nn))

/-- R85. -/
def execLdXY (x y : RegIdx) (s : State) : Host.Outcome State Fault Refusal := done (s.setV x (s.getV y))

/-- R86. -/
def execOrXY (x y : RegIdx) (s : State) : Host.Outcome State Fault Refusal :=
  done (s.setFlagged x (logicClear (s.getV x ||| s.getV y)))

/-- R87. -/
def execAndXY (x y : RegIdx) (s : State) : Host.Outcome State Fault Refusal :=
  done (s.setFlagged x (logicClear (s.getV x &&& s.getV y)))

/-- R88. -/
def execXorXY (x y : RegIdx) (s : State) : Host.Outcome State Fault Refusal :=
  done (s.setFlagged x (logicClear (s.getV x ^^^ s.getV y)))

/-- R89. -/
def execAddXY (x y : RegIdx) (s : State) : Host.Outcome State Fault Refusal :=
  done (s.setFlagged x (addCarry (s.getV x) (s.getV y)))

/-- R90. -/
def execSub (x y : RegIdx) (s : State) : Host.Outcome State Fault Refusal :=
  done (s.setFlagged x (subNoBorrow (s.getV x) (s.getV y)))

/-- R91. -/
def execSubn (x y : RegIdx) (s : State) : Host.Outcome State Fault Refusal :=
  done (s.setFlagged x (subNoBorrow (s.getV y) (s.getV x)))

/-- R92. -/
def execShr (x y : RegIdx) (s : State) : Host.Outcome State Fault Refusal :=
  done (s.setFlagged x (shiftRight1 (s.shiftSource x y)))

/-- R93. -/
def execShl (x y : RegIdx) (s : State) : Host.Outcome State Fault Refusal :=
  done (s.setFlagged x (shiftLeft1 (s.shiftSource x y)))

/-- R94: the draw is a free value unless the host hands one in; taking it moves to the next one. -/
def execRnd (x : RegIdx) (nn : Byte) (s : State) : Host.Outcome State Fault Refusal :=
  done (s.setV x (s.entropyDraw &&& nn)).drawTaken

end Sys2Proof.Machine
end

