-- ==== Sys2Proof/Machine/Flow.lean ====
section
/-! DEFINITION. Control transfer and skips (41_flow.md). Every meaning runs with pc = p + 2 (40_cycle.md R64). -/

namespace Sys2Proof.Machine

/-- `if cond: pc <- (pc + 2) mod 2^16` (R66). -/
def State.skipIf (s : State) (cond : Bool) : State := if cond then s.advance else s

/-- R73: nothing, or UnknownOpcode when SYS_REPORTS_UNKNOWN. -/
def execSys (nnn : Addr) (s : State) : Host.Outcome State Fault Refusal :=
  if s.params.sysReportsUnknown then .next (s.raiseUnknown (encode (.sys nnn))) else done s

/-- R74. -/
def execRet (u : Nibble) (s : State) : Host.Outcome State Fault Refusal :=
  match s.pop with
  | some (a, t) => done (t.jumpTo a)
  | none => .next (s.raise .stackUnderflow (s.plainInfo (encode (.ret u))))

/-- R75. -/
def execJp (nnn : Addr) (s : State) : Host.Outcome State Fault Refusal := done (s.jumpTo (zextAddr nnn))

/-- R76: the pushed pc is p + 2, the return address. -/
def execCall (nnn : Addr) (s : State) : Host.Outcome State Fault Refusal :=
  match s.push s.pc with
  | some t => done (t.jumpTo (zextAddr nnn))
  | none => .next (s.raise .stackOverflow (s.plainInfo (encode (.call nnn))))

/-- R77. -/
def execSeXNN (x : RegIdx) (nn : Byte) (s : State) : Host.Outcome State Fault Refusal :=
  done (s.skipIf (s.getV x == nn))

/-- R78. -/
def execSneXNN (x : RegIdx) (nn : Byte) (s : State) : Host.Outcome State Fault Refusal :=
  done (s.skipIf (s.getV x != nn))

/-- R79; the four bits `u` are not examined (R56). -/
def execSeXY (x y : RegIdx) (s : State) : Host.Outcome State Fault Refusal :=
  done (s.skipIf (s.getV x == s.getV y))

/-- R80; the four bits `u` are not examined (R56). -/
def execSneXY (x y : RegIdx) (s : State) : Host.Outcome State Fault Refusal :=
  done (s.skipIf (s.getV x != s.getV y))

/-- R81: V0 only, and no reduction to 12 bits. -/
def execJpV0 (nnn : Addr) (s : State) : Host.Outcome State Fault Refusal :=
  done (s.jumpTo (zextAddr nnn + zextByte (s.getV 0)))

end Sys2Proof.Machine
end

