-- ==== Sys2Proof/Machine/IndexMem.lean ====
section
/-! DEFINITION. The index register, the font address, the BCD converter and the register block transfer
(43_index_memory.md). -/

namespace Sys2Proof.Machine

/-- R96. -/
def execLdI (nnn : Addr) (s : State) : Host.Outcome State Fault Refusal := done (s.setI (zextAddr nnn))

/-- R97: 16-bit add, no flag. -/
def execAddIX (x : RegIdx) (s : State) : Host.Outcome State Fault Refusal :=
  done (s.setI (s.I + zextByte (s.getV x)))

/-- R98: Vx is not reduced to its low nibble. -/
def execLdFX (x : RegIdx) (s : State) : Host.Outcome State Fault Refusal :=
  done (s.setI (5 * zextByte (s.getV x)))

/-- R99. -/
def execLdBX (x : RegIdx) (s : State) : Host.Outcome State Fault Refusal :=
  s.accessing 3 (encode (.ldBX x)) (s.store (s.dataAddr 0) (bcdDigits (s.getV x)))

/-- R100. -/
def execLdMemX (x : RegIdx) (s : State) : Host.Outcome State Fault Refusal :=
  s.accessing (x.val + 1) (encode (.ldMemX x))
    ((s.store (s.dataAddr 0) (s.regsUpTo x)).advanceI (x.val + 1))

/-- R101. -/
def execLdXMem (x : RegIdx) (s : State) : Host.Outcome State Fault Refusal :=
  s.accessing (x.val + 1) (encode (.ldXMem x)) ((s.loadRegs x).advanceI (x.val + 1))

end Sys2Proof.Machine
end

