-- ==== Sys2Proof/Machine/Keypad.lean ====
section
/-! DEFINITION. The keypad and timer instructions (45_keypad_timers.md). -/

namespace Sys2Proof.Machine

/-- R108. -/
def execSkp (x : RegIdx) (s : State) : Host.Outcome State Fault Refusal :=
  done (s.skipIf (s.keySelected x))

/-- R109. -/
def execSknp (x : RegIdx) (s : State) : Host.Outcome State Fault Refusal :=
  done (s.skipIf (!s.keySelected x))

/-- R110. -/
def execLdXDT (x : RegIdx) (s : State) : Host.Outcome State Fault Refusal := done (s.setV x s.DT)

/-- R111: with no key down pc goes back to p, and the next step runs the instruction again. -/
def execLdXK (x : RegIdx) (s : State) : Host.Outcome State Fault Refusal :=
  match s.firstKey with
  | some k => done (s.setV x (BitVec.ofNat 8 k.val))
  | none => done (s.jumpTo (s.pc - 2))

/-- R112. -/
def execLdDTX (x : RegIdx) (s : State) : Host.Outcome State Fault Refusal := done (s.setDT (s.getV x))

/-- R113. -/
def execLdSTX (x : RegIdx) (s : State) : Host.Outcome State Fault Refusal := done (s.setST (s.getV x))

end Sys2Proof.Machine
end

