-- ==== Sys2Proof/Machine/Screen.lean ====
section
/-! DEFINITION. The display surface and the sprite engine (44_display.md). -/

namespace Sys2Proof.Machine

/-- One sprite bit that is 1: the cell is inverted, and a set cell it clears is a collision (R104). The second
component is the collision so far. -/
def xorPixel (y : Fin 32) (x : Fin 64) (c : Display × Bool) : Display × Bool :=
  (c.1.setCell y x (!c.1.cell y x), c.2 || c.1.cell y x)

/-- One sprite row: the pixel at column offset k is bit 7 - k of the byte, on column (x0 + k) mod 64 (R102). -/
def drawByte (b : Byte) (x0 : Nat) (y : Fin 32) (c : Display × Bool) : Display × Bool :=
  (List.range 8).foldl
    (fun c k => if b.getLsbD (7 - k) then xorPixel y (Fin.ofNat 64 (x0 + k)) c else c) c

/-- The rows of a sprite from the top: row r on display row (y0 + r) mod 32 (R102, R104). -/
def drawSprite : List Byte → Nat → Nat → Display × Bool → Display × Bool
  | [], _, _, c => c
  | b :: bs, x0, y0, c => drawSprite bs x0 (y0 + 1) (drawByte b x0 (Fin.ofNat 32 y0) c)

/-- R103. -/
def execCls (s : State) : Host.Outcome State Fault Refusal :=
  done (s.show Display.clear)

/-- The n bytes of the sprite at I (R102). -/
def State.spriteBytes (s : State) (n : Fin 16) : List Byte := s.mem.readBytes (s.dataAddr 0) n.val

/-- The display and the collision after the sprite of n rows at I is drawn at (Vx mod 64, Vy mod 32) (R104). -/
def State.drawn (s : State) (x y : RegIdx) (n : Fin 16) : Display × Bool :=
  drawSprite (s.spriteBytes n) ((s.getV x).toNat % 64) ((s.getV y).toNat % 32) (s.disp, false)

/-- R104. -/
def execDrw (x y : RegIdx) (n : Fin 16) (s : State) : Host.Outcome State Fault Refusal :=
  s.accessing n.val (encode (.drw x y n))
    ((s.setV VF (flagByte (s.drawn x y n).2)).show (s.drawn x y n).1)

end Sys2Proof.Machine
end

