-- ==== Sys2Proof/Machine/Dispatch.lean ====
section
/-! DEFINITION. Dispatch (40_cycle.md R65): one arm per handler. -/

namespace Sys2Proof.Machine

def exec (i : Instr) (s : State) : Host.Outcome State Fault Refusal :=
  match i with
  -- control transfer and skips (41_flow.md), and CLS
  | .sys nnn => Sys2Proof.Machine.execSys nnn s
  | .cls _ => Sys2Proof.Machine.execCls s
  | .ret u => Sys2Proof.Machine.execRet u s
  | .jp nnn => Sys2Proof.Machine.execJp nnn s
  | .call nnn => Sys2Proof.Machine.execCall nnn s
  | .seXNN x nn => Sys2Proof.Machine.execSeXNN x nn s
  | .sneXNN x nn => Sys2Proof.Machine.execSneXNN x nn s
  | .seXY x y _ => Sys2Proof.Machine.execSeXY x y s
  -- the ALU (42_alu.md)
  | .ldXNN x nn => Sys2Proof.Machine.execLdXNN x nn s
  | .addXNN x nn => Sys2Proof.Machine.execAddXNN x nn s
  | .ldXY x y => Sys2Proof.Machine.execLdXY x y s
  | .orXY x y => Sys2Proof.Machine.execOrXY x y s
  | .andXY x y => Sys2Proof.Machine.execAndXY x y s
  | .xorXY x y => Sys2Proof.Machine.execXorXY x y s
  | .addXY x y => Sys2Proof.Machine.execAddXY x y s
  | .sub x y => Sys2Proof.Machine.execSub x y s
  | .shr x y => Sys2Proof.Machine.execShr x y s
  | .subn x y => Sys2Proof.Machine.execSubn x y s
  | .shl x y => Sys2Proof.Machine.execShl x y s
  | .sneXY x y _ => Sys2Proof.Machine.execSneXY x y s
  | .ldI nnn => Sys2Proof.Machine.execLdI nnn s
  | .jpV0 nnn => Sys2Proof.Machine.execJpV0 nnn s
  | .rnd x nn => Sys2Proof.Machine.execRnd x nn s
  -- the sprite engine (44_display.md)
  | .drw x y n => Sys2Proof.Machine.execDrw x y n s
  -- keypad and timers (45_keypad_timers.md)
  | .skp x => Sys2Proof.Machine.execSkp x s
  | .sknp x => Sys2Proof.Machine.execSknp x s
  | .ldXDT x => Sys2Proof.Machine.execLdXDT x s
  | .ldXK x => Sys2Proof.Machine.execLdXK x s
  | .ldDTX x => Sys2Proof.Machine.execLdDTX x s
  | .ldSTX x => Sys2Proof.Machine.execLdSTX x s
  -- index and memory (43_index_memory.md)
  | .addIX x => Sys2Proof.Machine.execAddIX x s
  | .ldFX x => Sys2Proof.Machine.execLdFX x s
  | .ldBX x => Sys2Proof.Machine.execLdBX x s
  | .ldMemX x => Sys2Proof.Machine.execLdMemX x s
  | .ldXMem x => Sys2Proof.Machine.execLdXMem x s

end Sys2Proof.Machine
end

