-- ==== Sys2Proof/Machine/Step.lean ====
section
/-! DEFINITION. The step verb (40_cycle.md R69), and how a word is placed where the next step fetches it. -/

namespace Sys2Proof.Machine

/-- One step (R69): nothing while halted (R61); else the range check of the fetch (R63), the fetch, the base
advance (R64), and the handler of the word (R65) or, for an UNKNOWN word, its condition (R68). -/
def step (s : State) : Host.Outcome State Fault Refusal :=
  if s.halt ≠ .none then .next s
  else if s.fetchOutOfRange then .next s.raiseFetch
  else
    match decode s.fetchWord with
    | .ok i => exec i s.advance
    | .error _ => .next (s.advance.raiseUnknown s.fetchWord)

/-- `s` with the instruction of a table word stored at pc, so that the next step fetches and runs it. Where pc
leaves no room for two bytes it is put at the entry point 0x200 (R40) first, and a halted block is made to run:
both are what the fetch needs, and neither changes the reset state (log entry 26). -/
def State.withFetchWord (s : State) (nbits w : Nat) : State :=
  let pc := if s.fetchOutOfRange then 0x200 else s.pc
  let bytes := tableBytes nbits w
  { s with pc := pc, halt := .none, mem := s.mem.writeBytes pc.toNat [bytes.1, bytes.2] }

end Sys2Proof.Machine
end

