-- ==== Sys2Proof/Machine/Verbs.lean ====
section
/-! DEFINITION. The host's verbs (60_exceptions.md R128): reset, load, step, tick, set_key, ack_display and
observe, each atomic, called one at a time in any order (70_reset_and_hazards.md R150). -/

namespace Sys2Proof.Machine

/-- The longest program: 4096 - 0x200 bytes (R7, R140). -/
def romMax : Nat := 3584

/-- `reset()` (R137): every element to its reset value, the font written from the parameter FONT. The parameters
are no state of the block and stay (R12), and so does the count of draws, so that the draws after a reset are not
the ones before it (log entry 3). -/
def State.resetVerb (s : State) : State :=
  { State.reset with
    mem := Memory.writeBytes [] 0 s.params.font.toList
    params := s.params, drawIn := s.drawIn, drawCount := s.drawCount }

/-- What the load verb answers (R128). -/
inductive LoadResult where
  | ok
  | romTooLarge
  deriving DecidableEq, Repr

/-- `load(bytes)` (R139, R140): the bytes from 0x200 on, or nothing when there are more than 3584. -/
def State.load (s : State) (bytes : List Byte) : State × LoadResult :=
  if romMax < bytes.length then (s, .romTooLarge)
  else (s.store 0x200 bytes, .ok)

/-- One count down, stopping at zero (R124, R125). -/
def countDown (t : Byte) : Byte := if t = 0 then 0 else t - 1

/-- `tick()` (R125): the two timers, and whether this tick brought ST from 1 to 0. It runs while halted too
(R127). -/
def State.tick (s : State) : State × Bool :=
  ({ s with DT := countDown s.DT, ST := countDown s.ST }, decide (s.ST = 1))

/-- `sound_active = (ST != 0)` (R126) -/
def State.soundActive (s : State) : Bool := s.ST != 0

/-- `set_key(k, b)` (R129) -/
def State.setKey (s : State) (k : RegIdx) (b : Bool) : State :=
  { s with key := s.key.set k.val b k.isLt }

/-- `ack_display` (R131) -/
def State.ackDisplay (s : State) : State := { s with dirty := false }

/-- The code a step from `s` to `t` reports: the held code while halted (R61), else the condition of this step
(R67). -/
def reported (s t : State) : Cond := if s.halt ≠ .none then s.halt else t.lastCond

/-- The seven verbs with their inputs (R128). -/
inductive Verb where
  | reset
  | load (bytes : List Byte)
  | step (r : Byte)
  | tick
  | setKey (k : RegIdx) (b : Bool)
  | ackDisplay
  | observe
  deriving DecidableEq, Repr

/-- The results of the verbs (R128). -/
inductive Reply where
  | nothing
  | loaded (r : LoadResult)
  | code (c : Cond)
  | stopTone (b : Bool)
  | view (s : State) (soundActive : Bool)
  deriving DecidableEq, Repr

/-- `step(r)` (R60, R69): one step whose entropy draw is `r`. -/
def State.stepVerb (s : State) (r : Byte) : Host.Outcome (State × Reply) Fault Refusal :=
  match step { s with drawIn := some r } with
  | .next t => .next ({ t with drawIn := s.drawIn }, .code (reported s t))
  | .fault f => .fault f
  | .refused f => .refused f

/-- One verb: the state it leaves and its result (R128). -/
def State.apply (s : State) : Verb → Host.Outcome (State × Reply) Fault Refusal
  | .reset => .next (s.resetVerb, .nothing)
  | .load bytes => .next ((s.load bytes).1, .loaded (s.load bytes).2)
  | .step r => s.stepVerb r
  | .tick => .next (s.tick.1, .stopTone s.tick.2)
  | .setKey k b => .next (s.setKey k b, .nothing)
  | .ackDisplay => .next (s.ackDisplay, .nothing)
  | .observe => .next (s, .view s s.soundActive)

/-- A serialized sequence of verbs (R43, R150); the schedule is the host's (R149). -/
def State.applyAll (s : State) : List Verb → Host.Outcome State Fault Refusal
  | [] => .next s
  | v :: vs =>
    match s.apply v with
    | .next (t, _) => t.applyAll vs
    | .fault f => .fault f
    | .refused f => .refused f

end Sys2Proof.Machine
end

