-- ==== Sys2Proof/Safety.lean ====
section
/-! DEFINITION. The words claims are made in: when a run is over and when it failed (70_reset_and_hazards.md R145),
the invariant of the block, and what a state may differ in from another (the frames). -/

namespace Sys2Proof.Machine

/-! ### Runs (R145) -/

/-- The block is in the halted state (R116). It is a failed end, never a normal one (92_eei_decisions.md D8). -/
def State.halted (s : State) : Bool := s.halt != .none

/-- The next word is a jump to its own address, the conventional end of a program (R145). -/
def State.atSelfJump (s : State) : Bool :=
  !s.fetchOutOfRange && s.fetchWord == wordN 0x1 (s.pc.setWidth 12)

/-- A run is over when the block is halted, at a self-jump, or out of budget (R145). -/
def State.runOver (s : State) (budget : Nat) : Bool := s.halted || s.atSelfJump || budget == 0

/-- A run that ended as programs mean to end: at a self-jump, not halted (R145, D8). -/
def State.normalEnd (s : State) : Bool := !s.halted && s.atSelfJump

/-- No access of the run so far was out of range, the premise of 92_eei_decisions.md D9. -/
def State.noBoundsError (s : State) : Bool := s.seen &&& Cond.memoryOutOfBounds.seenBit == 0

/-- No state on the way through these verbs is halted. -/
def State.safeThrough (s : State) : List Verb → Prop
  | [] => s.halted = false
  | v :: vs => s.halted = false ∧ ∀ t r, s.apply v = .next (t, r) → t.safeThrough vs

/-! ### The invariant -/

/-- What every verb keeps: memory in canonical form, and status elements that tell one story (R115, R116). -/
structure State.Inv (s : State) : Prop where
  /-- memory is in canonical form -/
  mem_wf : s.mem.wf = true
  /-- UnknownOpcode never halts the block -/
  halt_fatal : s.halt ≠ .none → s.halt.fatal s.lastInfo.kind = true
  /-- the condition that halted the block is the last one reported, at the address where pc still stands -/
  halt_last : s.halt ≠ .none → s.lastCond = s.halt ∧ s.lastInfo.pc = s.pc
  /-- a condition that was reported is in `seen` -/
  last_seen : s.lastCond.seenBit &&& s.seen = s.lastCond.seenBit
  /-- an access kind is recorded exactly with an address outside 0x000 to 0xFFF -/
  info_addr : (s.lastInfo.kind = .none ∧ s.lastInfo.addr = 0) ∨
    (s.lastInfo.kind ≠ .none ∧ 0xFFF < s.lastInfo.addr ∧
      Cond.memoryOutOfBounds.seenBit &&& s.seen = Cond.memoryOutOfBounds.seenBit)
  /-- while nothing has been seen nothing is recorded -/
  unseen_info : s.seen = 0 → s.lastInfo = State.reset.lastInfo

/-! ### Frames -/

/-- What a verb or an instruction may change; what is not named here stays. -/
structure Touched where
  /-- the general registers it may write -/
  regs : List RegIdx := []
  /-- the addresses of the bytes it stores to -/
  bytes : List Nat := []
  I : Bool := false
  stack : Bool := false
  timers : Bool := false
  disp : Bool := false
  dirty : Bool := false
  /-- `halt`, `last_info` and `seen` -/
  status : Bool := false
  draws : Bool := false
  deriving DecidableEq, Repr

/-- `t` differs from `s` only in what `T` names, in pc and in `last_cond`, which every step writes (R67). Memory
is compared byte by byte. The keys and the parameters, which no step writes (R71), are compared always. -/
structure ChangesOnly (T : Touched) (s t : State) : Prop where
  regs : ∀ r, r ∉ T.regs → t.getV r = s.getV r
  mem : ∀ a, a ∉ T.bytes → t.mem.read a = s.mem.read a
  I : T.I = false → t.I = s.I
  stack : T.stack = false → t.stack = s.stack ∧ t.sp = s.sp
  timers : T.timers = false → t.DT = s.DT ∧ t.ST = s.ST
  key : t.key = s.key
  disp : T.disp = false → t.disp = s.disp
  dirty : T.dirty = false → t.dirty = s.dirty
  status : T.status = false → t.halt = s.halt ∧ t.lastInfo = s.lastInfo ∧ t.seen = s.seen
  params : t.params = s.params
  draws : t.drawIn = s.drawIn ∧ (T.draws = false → t.drawCount = s.drawCount)

/-- The instruction ends at `target` with no condition reported, and has changed nothing but what `T` names. -/
structure EndsAt (target : Word) (T : Touched) (s t : State) : Prop where
  pc : t.pc = target
  quiet : t.lastCond = .none
  frame : ChangesOnly T s t

/-! ### The set of cells a sprite covers (44_display.md R102, R105) -/

/-- The cell in row `cy` and column `cx` is covered by a 1 bit of the sprite `Dxyn` draws in state `s`. -/
def State.spriteCovers (s : State) (x y : RegIdx) (n : Fin 16) (cy : Fin 32) (cx : Fin 64) : Prop :=
  ∃ r < n.val, ∃ c < 8, (s.mem.read (s.I.toNat + r)).getLsbD (7 - c) = true ∧
    cx.val = ((s.getV x).toNat % 64 + c) % 64 ∧ cy.val = ((s.getV y).toNat % 32 + r) % 32

end Sys2Proof.Machine
end

