-- ==== Sys2Proof/Certificates/Slice0/Obligations.lean ====
section
/-! DEFINITION. The statements for the provers. `exec i s` is the instruction after the base advance, so `s.pc` is
p + 2 there (40_cycle.md R64) and the instruction's own address p is `s.pc - 2`. Where a statement says how a word
decodes, the opcode value is the one its rule gives, which the spec takes from general knowledge
(92_eei_decisions.md D3; log entry 1). -/

open Sys2Proof Sys2Proof.Machine

/-! ### Encoding (30_encoding.md) -/

/-- Eight words written out bit by bit from the spec's formats: one of each of the families 0, 2, 3, D, E and F, and
two of family 8, the second of them UNKNOWN. -/
def Obligations.KnownWordsDecode : Prop :=
  decode 0b0000_0001_0010_0011#16 = .ok (.sys 0x123) ∧
  decode 0b0010_0011_0000_0000#16 = .ok (.call 0x300) ∧
  decode 0b0011_0011_0001_0010#16 = .ok (.seXNN 3 0x12) ∧
  decode 0b1000_0001_0010_0101#16 = .ok (.sub 1 2) ∧
  decode 0b1101_1010_1011_0101#16 = .ok (.drw 10 11 5) ∧
  decode 0b1110_0010_1001_1110#16 = .ok (.skp 2) ∧
  decode 0b1111_0011_0101_0101#16 = .ok (.ldMemX 3) ∧
  decode 0b1000_0001_0010_1000#16 = .error (.unknownOpcode 0x8128)

/-- R53 (the spec's decisions D2, D3 and D4) with the encoder: no bit of a well-formed instruction is lost. -/
def Obligations.EncodeThenDecodeGivesInstructionBack : Prop :=
  ∀ i : Instr, i.wf = true → decode (encode i) = .ok i

/-- R53, R56 (the spec's decisions D2, D3 and D4): a word has one reading, which is well formed and encodes to that
word, the unexamined bits among it. -/
def Obligations.DecodedWordIsItsOwnEncoding : Prop :=
  ∀ (w : Word) (i : Instr), decode w = .ok i → i.wf = true ∧ encode i = w

/-- R55 (an inference the spec marks as its own): the words that decode to UNKNOWN, exactly. -/
def Obligations.UnknownWordsAreExactlyThese : Prop :=
  ∀ w : Word, decode w = .error (.unknownOpcode w) ↔
    (∃ x y S : Nibble, w = 0x8#4 ++ x ++ y ++ S ∧ S ∈ [0x8#4, 0x9#4, 0xA#4, 0xB#4, 0xC#4, 0xD#4, 0xF#4]) ∨
    (∃ (x : Nibble) (kk : Byte), w = 0xE#4 ++ x ++ kk ∧ kk ∉ [0x9E#8, 0xA1#8]) ∨
    (∃ (x : Nibble) (kk : Byte), w = 0xF#4 ++ x ++ kk ∧
      kk ∉ [0x07#8, 0x0A#8, 0x15#8, 0x18#8, 0x1E#8, 0x29#8, 0x33#8, 0x55#8, 0x65#8])

/-- R59 (an inference the spec marks as its own): a decoded word matches its row of the opcode table and no other,
but that CLS and RET words match the SYS row too; an UNKNOWN word matches none. -/
def Obligations.OpcodeTableDecidesDecoding : Prop :=
  (∀ (w : Word) (i j : Instr), decode w = .ok i →
    (tableRow i).hits w = true ∧
    ((tableRow j).hits w = true →
      tableRow j = tableRow i ∨
      (tableRow j = ⟨0x0000, 0xF000⟩ ∧ (tableRow i = ⟨0x00E0, 0xF0FF⟩ ∨ tableRow i = ⟨0x00EE, 0xF0FF⟩)))) ∧
  ∀ (w : Word) (r : Reject) (j : Instr), decode w = .error r → (tableRow j).hits w = false

/-! ### The step (40_cycle.md) -/

/-- R62 to R65: with the two bytes at pc, high byte first, decoding to `i`, a step is `exec i` after the base advance.
No alignment of pc is asked for (R38; the spec's decisions D10 and D13). -/
def Obligations.StepRunsDecodedInstruction : Prop :=
  ∀ (s : State) (i : Instr), s.halt = .none → s.pc.toNat ≤ 0xFFE →
    decode (s.mem.read s.pc.toNat ++ s.mem.read (s.pc.toNat + 1)) = .ok i →
    step s = exec i { s with pc := s.pc + 2 }

/-- R61 (the spec's decisions D8 and D30): a step of the halted block changes nothing and reports the held code. -/
def Obligations.HaltedStepChangesNothing : Prop :=
  ∀ (s : State) (r : Byte), s.halt ≠ .none → step s = .next s ∧ s.stepVerb r = .next (s, .code s.halt)

/-- R35, R63 (the spec's decision D10): a fetch that reaches past 0xFFF halts the block with pc = p. -/
def Obligations.FetchPastTheEndHalts : Prop :=
  ∀ s : State, s.halt = .none → 0xFFE < s.pc.toNat →
    ∃ t, step s = .next t ∧ t.pc = s.pc ∧ t.halt = .memoryOutOfBounds ∧ t.lastCond = .memoryOutOfBounds ∧
      t.lastInfo = { pc := s.pc, word := 0, kind := .fetch, addr := max s.pc.toNat 0x1000 } ∧
      t.seen = s.seen ||| 0b1000#4 ∧ ChangesOnly { status := true } s t

/-- R68: an UNKNOWN word is a no-op other than advancing pc by 2, and is recorded. -/
def Obligations.UnknownWordOnlyAdvances : Prop :=
  ∀ (s : State) (w : Word) (r : Reject), s.halt = .none → s.pc.toNat ≤ 0xFFE →
    w = s.mem.read s.pc.toNat ++ s.mem.read (s.pc.toNat + 1) → decode w = .error r →
    ∃ t, step s = .next t ∧ t.pc = s.pc + 2 ∧ t.halt = .none ∧ t.lastCond = .unknownOpcode ∧
      t.lastInfo = { pc := s.pc, word := w, kind := .none, addr := 0 } ∧
      t.seen = s.seen ||| 0b0001#4 ∧ ChangesOnly { status := true } s t

/-- R60, R69: every step of every state returns a state. That no step, those of the halted block included, ends in a
fault is the model's choice (log entry 4): the spec's decision D8 wants the halted state treated as a fault, which
`State.halted` of Safety.lean does. -/
def Obligations.EveryStepAnswersNext : Prop := ∀ s : State, ∃ t, step s = .next t

/-- R116 (the spec's decisions D8 and D10) over whole steps: when a step halts the block, nothing but the
status elements has changed. -/
def Obligations.FatalConditionIsPrecise : Prop :=
  ∀ s t : State, s.halt = .none → step s = .next t → t.halt ≠ .none →
    t = { s with halt := t.halt, lastCond := t.halt, lastInfo := t.lastInfo, seen := s.seen ||| t.halt.seenBit } ∧
    t.lastInfo.pc = s.pc ∧ t.halt ≠ .unknownOpcode

/-- R117 (the spec's decision D9) over whole steps: a condition that does not halt leaves nothing but the base
advance. -/
def Obligations.NonFatalConditionOnlyAdvances : Prop :=
  ∀ s t : State, s.halt = .none → step s = .next t → t.halt = .none → t.lastCond ≠ .none →
    t = { s with
      pc := s.pc + 2, lastCond := t.lastCond, lastInfo := t.lastInfo, seen := s.seen ||| t.lastCond.seenBit } ∧
    t.lastInfo.pc = s.pc ∧
    (t.lastCond = .unknownOpcode ∨ t.lastCond = .memoryOutOfBounds ∧ t.lastInfo.kind = .data)

/-- R115 (the spec's decision D17) over whole steps: what a step that reports nothing, and one that reports c, leave
in the status. -/
def Obligations.StatusRecordsEachStep : Prop :=
  ∀ s t : State, s.halt = .none → step s = .next t →
    (t.lastCond = .none → t.halt = .none ∧ t.lastInfo = s.lastInfo ∧ t.seen = s.seen) ∧
    (t.lastCond = .unknownOpcode → t.halt = .none ∧ t.seen = s.seen ||| 0b0001#4) ∧
    (t.lastCond = .stackOverflow → t.halt = .stackOverflow ∧ t.seen = s.seen ||| 0b0010#4) ∧
    (t.lastCond = .stackUnderflow → t.halt = .stackUnderflow ∧ t.seen = s.seen ||| 0b0100#4) ∧
    (t.lastCond = .memoryOutOfBounds →
      t.halt = (if t.lastInfo.kind = .fetch then .memoryOutOfBounds else .none) ∧ t.seen = s.seen ||| 0b1000#4)

/-- R71: no step writes a key; DT and ST change only by `Fx15` and `Fx18`, dirty only by `0-E0` and `Dxyn`. -/
def Obligations.TimersKeysAndDirtyHaveTheirWriters : Prop :=
  ∀ s t : State, step s = .next t →
    t.key = s.key ∧
    (t.DT ≠ s.DT → ∃ x, decode s.fetchWord = .ok (.ldDTX x)) ∧
    (t.ST ≠ s.ST → ∃ x, decode s.fetchWord = .ok (.ldSTX x)) ∧
    (t.dirty ≠ s.dirty → (∃ u, decode s.fetchWord = .ok (.cls u)) ∨ ∃ x y n, decode s.fetchWord = .ok (.drw x y n))

/-- R25: among instructions only the draw and the clear change a display cell, and a step that leaves dirty false
has changed none (R26). -/
def Obligations.DisplayChangesOnlyByDrawAndClear : Prop :=
  ∀ s t : State, step s = .next t → t.disp ≠ s.disp →
    t.dirty = true ∧ ((∃ u, decode s.fetchWord = .ok (.cls u)) ∨ ∃ x y n, decode s.fetchWord = .ok (.drw x y n))

/-- R29 (an inference the spec marks as its own): ST, dirty and the recorded conditions are read by no instruction.
Two states that differ only there step to states that differ only there. -/
def Obligations.HostOnlyStateIsNeverRead : Prop :=
  ∀ (s t : State) (st : Byte) (d : Bool) (c : Cond) (i : CondInfo) (b : BitVec 4), step s = .next t →
    ∃ st' d' c' i' b',
      step { s with ST := st, dirty := d, lastCond := c, lastInfo := i, seen := b } =
        .next { t with ST := st', dirty := d', lastCond := c', lastInfo := i', seen := b' }

/-- R29 (an inference the spec marks as its own): a stack entry at or above sp is read by no instruction. -/
def Obligations.StaleStackEntriesAreNeverRead : Prop :=
  ∀ (s t : State) (k : Fin 16) (a : Word), s.sp.val ≤ k.val → step s = .next t →
    ∃ t', step { s with stack := s.stack.set k.val a k.isLt } = .next t' ∧ t' = { t with stack := t'.stack } ∧
      ∀ j : Fin 16, j.val < t.sp.val → t'.stack.get j = t.stack.get j

/-- R60, R130: the entropy draw reaches only `Cxnn` (the spec's decision D16). drawIn and drawCount are the model's
own (log entry 3). -/
def Obligations.EntropyReachesOnlyRandom : Prop :=
  ∀ (s t : State) (d : Option Byte) (k : Nat), step s = .next t →
    (∀ x nn, decode s.fetchWord ≠ .ok (.rnd x nn)) →
    step { s with drawIn := d, drawCount := k } = .next { t with drawIn := d, drawCount := k }

/-! ### The invariant -/

/-- The reset state meets the invariant. -/
def Obligations.ResetMeetsTheInvariant : Prop := State.reset.Inv

/-- Every step keeps the invariant: memory stays canonical and the status elements tell one story. -/
def Obligations.EveryStepKeepsTheInvariant : Prop := ∀ s t : State, s.Inv → step s = .next t → t.Inv

/-- Every sequence of host verbs keeps the invariant, whatever the schedule, the program and the parameters. -/
def Obligations.EveryVerbSequenceKeepsTheInvariant : Prop :=
  ∀ (vs : List Verb) (s t : State), s.Inv → s.applyAll vs = .next t → t.Inv

/-- The canonical form is canonical: two memories that read the same are the same list (log entry 20). -/
def Obligations.MemoriesThatReadAlikeAreEqual : Prop :=
  ∀ m m' : Memory, m.wf = true → m'.wf = true → (∀ a, m.read a = m'.read a) → m = m'

/-! ### Control transfer (41_flow.md) -/

/-- R75. -/
def Obligations.JumpSetsPc : Prop :=
  (∀ nnn : Addr, decode (0x1#4 ++ nnn) = .ok (.jp nnn)) ∧
  ∀ (nnn : Addr) (s : State), ∃ t, exec (.jp nnn) s = .next t ∧ t.pc.toNat = nnn.toNat ∧ EndsAt t.pc {} s t

/-- R77, R78: a skip leaves pc at p + 4, else it is p + 2. -/
def Obligations.SkipsOnImmediate : Prop :=
  (∀ (x : Nibble) (nn : Byte), decode (0x3#4 ++ x ++ nn) = .ok (.seXNN x.toFin nn)) ∧
  (∀ (x : Nibble) (nn : Byte), decode (0x4#4 ++ x ++ nn) = .ok (.sneXNN x.toFin nn)) ∧
  ∀ (x : RegIdx) (nn : Byte) (s : State),
    (∃ t, exec (.seXNN x nn) s = .next t ∧ EndsAt (if s.getV x = nn then s.pc + 2 else s.pc) {} s t) ∧
    (∃ t, exec (.sneXNN x nn) s = .next t ∧ EndsAt (if s.getV x = nn then s.pc else s.pc + 2) {} s t)

/-- R79, R80, with the four low bits unexamined (the spec's decision D2). -/
def Obligations.SkipsOnRegisters : Prop :=
  (∀ x y u : Nibble, decode (0x5#4 ++ x ++ y ++ u) = .ok (.seXY x.toFin y.toFin u)) ∧
  (∀ x y u : Nibble, decode (0x9#4 ++ x ++ y ++ u) = .ok (.sneXY x.toFin y.toFin u)) ∧
  ∀ (x y : RegIdx) (u : Nibble) (s : State),
    (∃ t, exec (.seXY x y u) s = .next t ∧ EndsAt (if s.getV x = s.getV y then s.pc + 2 else s.pc) {} s t) ∧
    (∃ t, exec (.sneXY x y u) s = .next t ∧ EndsAt (if s.getV x = s.getV y then s.pc else s.pc + 2) {} s t)

/-- R81: the target is nnn + V0, not reduced to 12 bits (the spec's decision D13). -/
def Obligations.JumpWithOffsetAddsV0 : Prop :=
  (∀ nnn : Addr, decode (0xB#4 ++ nnn) = .ok (.jpV0 nnn)) ∧
  ∀ (nnn : Addr) (s : State),
    ∃ t, exec (.jpV0 nnn) s = .next t ∧ t.pc.toNat = nnn.toNat + (s.getV 0).toNat ∧ EndsAt t.pc {} s t

/-- R76: a call pushes p + 2; the seventeenth is StackOverflow, fatal (the spec's decision D8). -/
def Obligations.CallPushesReturnAddress : Prop :=
  (∀ nnn : Addr, decode (0x2#4 ++ nnn) = .ok (.call nnn)) ∧
  ∀ (nnn : Addr) (s : State),
    (s.sp.val < 16 → ∃ t, exec (.call nnn) s = .next t ∧ t.pc.toNat = nnn.toNat ∧ t.sp.val = s.sp.val + 1 ∧
      (∀ k : Fin 16, t.stack.get k = if k.val = s.sp.val then s.pc else s.stack.get k) ∧
      EndsAt t.pc { stack := true } s t) ∧
    (s.sp.val = 16 → exec (.call nnn) s = .next { s with
      pc := s.pc - 2, halt := .stackOverflow, lastCond := .stackOverflow, seen := s.seen ||| 0b0010#4
      lastInfo := { pc := s.pc - 2, word := 0x2#4 ++ nnn, kind := .none, addr := 0 } })

/-- R74: a return pops into pc and leaves the entry; on an empty stack it is StackUnderflow, fatal (the spec's
decisions D8 and D32). -/
def Obligations.ReturnPopsIntoPc : Prop :=
  (∀ u : Nibble, decode (0x0#4 ++ u ++ 0xEE#8) = .ok (.ret u)) ∧
  ∀ (u : Nibble) (s : State),
    (∀ k : Fin 16, s.sp.val = k.val + 1 → ∃ t, exec (.ret u) s = .next t ∧ t.sp.val = k.val ∧ t.stack = s.stack ∧
      EndsAt (s.stack.get k) { stack := true } s t) ∧
    (s.sp.val = 0 → exec (.ret u) s = .next { s with
      pc := s.pc - 2, halt := .stackUnderflow, lastCond := .stackUnderflow, seen := s.seen ||| 0b0100#4
      lastInfo := { pc := s.pc - 2, word := 0x0#4 ++ u ++ 0xEE#8, kind := .none, addr := 0 } })

/-- R143: a return from a call comes to the address after the call, whatever ran in between with the stack back
where the call left it. -/
def Obligations.ReturnUndoesCall : Prop :=
  ∀ (nnn : Addr) (u : Nibble) (s t m : State), s.sp.val < 16 → exec (.call nnn) s = .next t →
    m.stack = t.stack → m.sp = t.sp →
    ∃ r, exec (.ret u) m = .next r ∧ r.pc = s.pc ∧ r.sp = s.sp ∧
      ∀ k : Fin 16, k.val < s.sp.val → r.stack.get k = s.stack.get k

/-- R73: SYS does nothing, or reports UnknownOpcode when the parameter says so (the spec's decision D4). -/
def Obligations.SysHasNoEffect : Prop :=
  (∀ nnn : Addr, nnn.extractLsb' 0 8 ≠ 0xE0#8 → nnn.extractLsb' 0 8 ≠ 0xEE#8 → decode (0x0#4 ++ nnn) = .ok (.sys nnn)) ∧
  ∀ (nnn : Addr) (s : State),
    (s.params.sysReportsUnknown = false → ∃ t, exec (.sys nnn) s = .next t ∧ EndsAt s.pc {} s t) ∧
    (s.params.sysReportsUnknown = true → exec (.sys nnn) s = .next { s with
      lastCond := .unknownOpcode, seen := s.seen ||| 0b0001#4
      lastInfo := { pc := s.pc - 2, word := 0x0#4 ++ nnn, kind := .none, addr := 0 } })

/-- R145 (the spec's decision D28): at a jump to its own address a step leaves everything but `last_cond`. -/
def Obligations.SelfJumpIdles : Prop :=
  ∀ s : State, s.halted = false → s.atSelfJump = true → step s = .next { s with lastCond := .none }

/-! ### The ALU (42_alu.md) -/

/-- R83, R84, R85: the loads and the add that touch no flag. -/
def Obligations.LoadsAndAddImmediateWriteOnlyVx : Prop :=
  (∀ (x : Nibble) (nn : Byte), decode (0x6#4 ++ x ++ nn) = .ok (.ldXNN x.toFin nn)) ∧
  (∀ (x : Nibble) (nn : Byte), decode (0x7#4 ++ x ++ nn) = .ok (.addXNN x.toFin nn)) ∧
  (∀ x y : Nibble, decode (0x8#4 ++ x ++ y ++ 0x0#4) = .ok (.ldXY x.toFin y.toFin)) ∧
  ∀ (x y : RegIdx) (nn : Byte) (s : State),
    (∃ t, exec (.ldXNN x nn) s = .next t ∧ t.getV x = nn ∧ EndsAt s.pc { regs := [x] } s t) ∧
    (∃ t, exec (.addXNN x nn) s = .next t ∧ (t.getV x).toNat = ((s.getV x).toNat + nn.toNat) % 256 ∧
      EndsAt s.pc { regs := [x] } s t) ∧
    (∃ t, exec (.ldXY x y) s = .next t ∧ t.getV x = s.getV y ∧ EndsAt s.pc { regs := [x] } s t)

/-- R86, R87, R88: the bitwise operations clear VF after the result is written. -/
def Obligations.BitwiseOperationsClearFlag : Prop :=
  (∀ x y : Nibble, decode (0x8#4 ++ x ++ y ++ 0x1#4) = .ok (.orXY x.toFin y.toFin)) ∧
  (∀ x y : Nibble, decode (0x8#4 ++ x ++ y ++ 0x2#4) = .ok (.andXY x.toFin y.toFin)) ∧
  (∀ x y : Nibble, decode (0x8#4 ++ x ++ y ++ 0x3#4) = .ok (.xorXY x.toFin y.toFin)) ∧
  ∀ (x y : RegIdx) (s : State),
    (∃ t, exec (.orXY x y) s = .next t ∧ t.getV x = (if x = VF then 0 else s.getV x ||| s.getV y) ∧
      t.getV VF = 0 ∧ EndsAt s.pc { regs := [x, VF] } s t) ∧
    (∃ t, exec (.andXY x y) s = .next t ∧ t.getV x = (if x = VF then 0 else s.getV x &&& s.getV y) ∧
      t.getV VF = 0 ∧ EndsAt s.pc { regs := [x, VF] } s t) ∧
    (∃ t, exec (.xorXY x y) s = .next t ∧ t.getV x = (if x = VF then 0 else s.getV x ^^^ s.getV y) ∧
      t.getV VF = 0 ∧ EndsAt s.pc { regs := [x, VF] } s t)

/-- R89: the 9-bit sum; VF is the carry and is written last (the spec's decision D5). -/
def Obligations.AddSetsCarry : Prop :=
  (∀ x y : Nibble, decode (0x8#4 ++ x ++ y ++ 0x4#4) = .ok (.addXY x.toFin y.toFin)) ∧
  ∀ (x y : RegIdx) (s : State), ∃ t, exec (.addXY x y) s = .next t ∧
    (x ≠ VF → (t.getV x).toNat = ((s.getV x).toNat + (s.getV y).toNat) % 256) ∧
    t.getV VF = (if 255 < (s.getV x).toNat + (s.getV y).toNat then 1 else 0) ∧
    EndsAt s.pc { regs := [x, VF] } s t

/-- R90, R91: subtraction modulo 256 and its reverse; VF is 1 exactly when there is no borrow, and is written last
(the spec's decision D5). -/
def Obligations.SubtractionsSetNoBorrow : Prop :=
  (∀ x y : Nibble, decode (0x8#4 ++ x ++ y ++ 0x5#4) = .ok (.sub x.toFin y.toFin)) ∧
  (∀ x y : Nibble, decode (0x8#4 ++ x ++ y ++ 0x7#4) = .ok (.subn x.toFin y.toFin)) ∧
  ∀ (x y : RegIdx) (s : State),
    (∃ t, exec (.sub x y) s = .next t ∧
      (x ≠ VF → ((t.getV x).toNat : Int) = ((s.getV x).toNat - (s.getV y).toNat : Int) % 256) ∧
      t.getV VF = (if (s.getV y).toNat ≤ (s.getV x).toNat then 1 else 0) ∧ EndsAt s.pc { regs := [x, VF] } s t) ∧
    (∃ t, exec (.subn x y) s = .next t ∧
      (x ≠ VF → ((t.getV x).toNat : Int) = ((s.getV y).toNat - (s.getV x).toNat : Int) % 256) ∧
      t.getV VF = (if (s.getV x).toNat ≤ (s.getV y).toNat then 1 else 0) ∧ EndsAt s.pc { regs := [x, VF] } s t)

/-- R92, R93: the shifts by one; VF is the bit shifted out, written last; the source is Vy when SHIFT_READS_VY (the
spec's decisions D5 and D6). -/
def Obligations.ShiftsSetTheBitShiftedOut : Prop :=
  (∀ x y : Nibble, decode (0x8#4 ++ x ++ y ++ 0x6#4) = .ok (.shr x.toFin y.toFin)) ∧
  (∀ x y : Nibble, decode (0x8#4 ++ x ++ y ++ 0xE#4) = .ok (.shl x.toFin y.toFin)) ∧
  ∀ (x y : RegIdx) (s : State) (src : Nat),
    src = (if s.params.shiftReadsVy then (s.getV y).toNat else (s.getV x).toNat) →
    (∃ t, exec (.shr x y) s = .next t ∧ (x ≠ VF → (t.getV x).toNat = src / 2) ∧
      (t.getV VF).toNat = src % 2 ∧ EndsAt s.pc { regs := [x, VF] } s t) ∧
    (∃ t, exec (.shl x y) s = .next t ∧ (x ≠ VF → (t.getV x).toNat = src * 2 % 256) ∧
      (t.getV VF).toNat = src / 128 ∧ EndsAt s.pc { regs := [x, VF] } s t)

/-- R94: Vx becomes the draw AND nn; nothing else of the result is fixed (the spec's decision D16). The draw is the
model's free value or the host's (log entry 3). -/
def Obligations.RandomByteIsMasked : Prop :=
  (∀ (x : Nibble) (nn : Byte), decode (0xC#4 ++ x ++ nn) = .ok (.rnd x.toFin nn)) ∧
  ∀ (x : RegIdx) (nn : Byte) (s : State), ∃ t, exec (.rnd x nn) s = .next t ∧
    t.getV x = s.entropyDraw &&& nn ∧ t.getV x &&& ~~~nn = 0 ∧ (∀ r, s.drawIn = some r → t.getV x = r &&& nn) ∧
    EndsAt s.pc { regs := [x], draws := true } s t

/-- R60, R94, R130: the step verb with draw `r` gives `Cxnn` that draw (the spec's decision D16). -/
def Obligations.StepVerbSuppliesTheDraw : Prop :=
  ∀ (s : State) (r : Byte) (x : RegIdx) (nn : Byte), s.halt = .none → s.pc.toNat ≤ 0xFFE →
    decode s.fetchWord = .ok (.rnd x nn) →
    ∃ t, s.stepVerb r = .next (t, .code .none) ∧ t.getV x = r &&& nn ∧
      EndsAt (s.pc + 2) { regs := [x], draws := true } s t

/-! ### The index register and memory transfers (43_index_memory.md) -/

/-- R96, R97: I is set, or added to modulo 2^16 with no flag. -/
def Obligations.IndexIsSetAndAddedTo : Prop :=
  (∀ nnn : Addr, decode (0xA#4 ++ nnn) = .ok (.ldI nnn)) ∧
  (∀ x : Nibble, decode (0xF#4 ++ x ++ 0x1E#8) = .ok (.addIX x.toFin)) ∧
  ∀ (nnn : Addr) (x : RegIdx) (s : State),
    (∃ t, exec (.ldI nnn) s = .next t ∧ t.I.toNat = nnn.toNat ∧ EndsAt s.pc { I := true } s t) ∧
    (∃ t, exec (.addIX x) s = .next t ∧ t.I.toNat = (s.I.toNat + (s.getV x).toNat) % 2 ^ 16 ∧
      EndsAt s.pc { I := true } s t)

/-- R98: I = 5 * Vx, for every Vx (the spec's decision D12). -/
def Obligations.FontAddressIsFiveTimesVx : Prop :=
  (∀ x : Nibble, decode (0xF#4 ++ x ++ 0x29#8) = .ok (.ldFX x.toFin)) ∧
  ∀ (x : RegIdx) (s : State),
    ∃ t, exec (.ldFX x) s = .next t ∧ t.I.toNat = 5 * (s.getV x).toNat ∧ EndsAt s.pc { I := true } s t

/-- R99, in range (the spec's decision D9): the three decimal digits of Vx, most significant first. -/
def Obligations.BcdStoresThreeDigits : Prop :=
  (∀ x : Nibble, decode (0xF#4 ++ x ++ 0x33#8) = .ok (.ldBX x.toFin)) ∧
  ∀ (x : RegIdx) (s : State), s.I.toNat + 2 ≤ 0xFFF → ∃ t, exec (.ldBX x) s = .next t ∧
    (t.mem.read s.I.toNat).toNat = (s.getV x).toNat / 100 ∧
    (t.mem.read (s.I.toNat + 1)).toNat = (s.getV x).toNat / 10 % 10 ∧
    (t.mem.read (s.I.toNat + 2)).toNat = (s.getV x).toNat % 10 ∧
    EndsAt s.pc { bytes := [s.I.toNat, s.I.toNat + 1, s.I.toNat + 2] } s t

/-- R100, in range: V0 to Vx go to memory from I on; I moves only when the parameter says so (the spec's decision
D7). -/
def Obligations.DumpStoresRegisters : Prop :=
  (∀ x : Nibble, decode (0xF#4 ++ x ++ 0x55#8) = .ok (.ldMemX x.toFin)) ∧
  ∀ (x : RegIdx) (s : State), s.I.toNat + x.val ≤ 0xFFF → ∃ t, exec (.ldMemX x) s = .next t ∧
    (∀ k : RegIdx, k ≤ x → t.mem.read (s.I.toNat + k.val) = s.getV k) ∧
    t.I.toNat = (if s.params.loadstoreAdvancesI then (s.I.toNat + x.val + 1) % 2 ^ 16 else s.I.toNat) ∧
    EndsAt s.pc { I := true, bytes := (List.range (x.val + 1)).map (s.I.toNat + ·) } s t

/-- R101, in range: V0 to Vx come from memory, the registers above x stay; I as for the dump (the spec's decision
D7). -/
def Obligations.LoadReadsRegisters : Prop :=
  (∀ x : Nibble, decode (0xF#4 ++ x ++ 0x65#8) = .ok (.ldXMem x.toFin)) ∧
  ∀ (x : RegIdx) (s : State), s.I.toNat + x.val ≤ 0xFFF → ∃ t, exec (.ldXMem x) s = .next t ∧
    (∀ k : RegIdx, t.getV k = if k ≤ x then s.mem.read (s.I.toNat + k.val) else s.getV k) ∧
    t.I.toNat = (if s.params.loadstoreAdvancesI then (s.I.toNat + x.val + 1) % 2 ^ 16 else s.I.toNat) ∧
    EndsAt s.pc { I := true, regs := (List.finRange 16).filter (· ≤ x) } s t

/-- R100, R101 (the spec's decisions D7 and D9): the source's round trip. Loading from the memory a dump left, with
I as it was, gives the registers back. -/
def Obligations.LoadAfterDumpRestoresRegisters : Prop :=
  ∀ (x : RegIdx) (s t m r : State), s.I.toNat + x.val ≤ 0xFFF → exec (.ldMemX x) s = .next t →
    m.mem = t.mem → m.I = s.I → exec (.ldXMem x) m = .next r →
    ∀ k : RegIdx, r.getV k = if k ≤ x then s.getV k else m.getV k

/-- R34, R114, R117: a transfer that would pass 0xFFF has no effect but the recorded condition (the spec's decisions
D9 and D35). -/
def Obligations.OutOfRangeTransferHasNoEffect : Prop :=
  ∀ (s t : State) (x y : RegIdx) (n : Fin 16) (w : Word),
    t = { s with
      lastCond := .memoryOutOfBounds, seen := s.seen ||| 0b1000#4
      lastInfo := { pc := s.pc - 2, word := w, kind := .data, addr := max s.I.toNat 0x1000 } } →
    (0xFFF < s.I.toNat + 2 → w = encode (.ldBX x) → exec (.ldBX x) s = .next t) ∧
    (0xFFF < s.I.toNat + x.val → w = encode (.ldMemX x) → exec (.ldMemX x) s = .next t) ∧
    (0xFFF < s.I.toNat + x.val → w = encode (.ldXMem x) → exec (.ldXMem x) s = .next t) ∧
    (0 < n.val → 0xFFF < s.I.toNat + n.val - 1 → w = encode (.drw x y n) → exec (.drw x y n) s = .next t)

/-- R46, R147 (the spec's decision D27): two bytes stored at the next instruction's address are the word the next
step fetches. -/
def Obligations.StoreIsSeenByTheNextFetch : Prop :=
  ∀ (x : RegIdx) (s t : State), 1 ≤ x.val → s.I = s.pc → s.I.toNat + x.val ≤ 0xFFF →
    exec (.ldMemX x) s = .next t → t.fetchWord = s.getV 0 ++ s.getV 1

/-! ### The display (44_display.md) -/

/-- R103. -/
def Obligations.ClearDarkensEveryCell : Prop :=
  (∀ u : Nibble, decode (0x0#4 ++ u ++ 0xE0#8) = .ok (.cls u)) ∧
  ∀ (u : Nibble) (s : State), ∃ t, exec (.cls u) s = .next t ∧ (∀ y x, t.disp.cell y x = false) ∧ t.dirty = true ∧
    EndsAt s.pc { disp := true, dirty := true } s t

/-- R104, and R105 (an inference the spec marks as its own): the display becomes its exclusive or with the set of
cells the sprite covers, VF says whether a lit cell was covered, and dirty is set; wrapping, bit order, write order,
the range and n = 0 as the spec decides (D5, D9, D15, D23). -/
def Obligations.DrawXorsTheSprite : Prop :=
  (∀ x y n : Nibble, decode (0xD#4 ++ x ++ y ++ n) = .ok (.drw x.toFin y.toFin n.toFin)) ∧
  ∀ (x y : RegIdx) (n : Fin 16) (s : State), n.val = 0 ∨ s.I.toNat + n.val - 1 ≤ 0xFFF →
    ∃ t, exec (.drw x y n) s = .next t ∧
      (∀ cy cx, t.disp.cell cy cx = true ↔ ¬ (s.disp.cell cy cx = true ↔ s.spriteCovers x y n cy cx)) ∧
      ((∃ cy cx, s.disp.cell cy cx = true ∧ s.spriteCovers x y n cy cx) → t.getV VF = 1) ∧
      ((∀ cy cx, s.disp.cell cy cx = true → ¬ s.spriteCovers x y n cy cx) → t.getV VF = 0) ∧
      t.dirty = true ∧ EndsAt s.pc { regs := [VF], disp := true, dirty := true } s t

/-- R106 (an inference the spec marks as its own): the second of two equal draws restores the display, and its
collision flag says whether the sprite has a 1 bit. -/
def Obligations.DrawTwiceRestoresTheDisplay : Prop :=
  ∀ (x y : RegIdx) (n : Fin 16) (s t m r : State), n.val = 0 ∨ s.I.toNat + n.val - 1 ≤ 0xFFF →
    exec (.drw x y n) s = .next t → m.disp = t.disp → m.mem = s.mem → m.I = s.I →
    m.getV x = s.getV x → m.getV y = s.getV y → exec (.drw x y n) m = .next r →
    r.disp = s.disp ∧
    ((∀ cy cx, ¬ (s.disp.cell cy cx = true ∧ s.spriteCovers x y n cy cx)) →
      (r.getV VF = 1 ↔ ∃ k < n.val, s.mem.read (s.I.toNat + k) ≠ 0))

/-! ### Keypad and timers (45_keypad_timers.md) -/

/-- R107, R108, R109: the key in the low nibble of Vx (the spec's decision D11). -/
def Obligations.KeySkipsTestTheSelectedKey : Prop :=
  (∀ x : Nibble, decode (0xE#4 ++ x ++ 0x9E#8) = .ok (.skp x.toFin)) ∧
  (∀ x : Nibble, decode (0xE#4 ++ x ++ 0xA1#8) = .ok (.sknp x.toFin)) ∧
  ∀ (x k : RegIdx) (s : State), k.val = (s.getV x).toNat % 16 →
    (∃ t, exec (.skp x) s = .next t ∧ EndsAt (if s.key.get k = true then s.pc + 2 else s.pc) {} s t) ∧
    (∃ t, exec (.sknp x) s = .next t ∧ EndsAt (if s.key.get k = true then s.pc else s.pc + 2) {} s t)

/-- R110, R112: DT is read and written whole. -/
def Obligations.DelayTimerIsReadAndWritten : Prop :=
  (∀ x : Nibble, decode (0xF#4 ++ x ++ 0x07#8) = .ok (.ldXDT x.toFin)) ∧
  (∀ x : Nibble, decode (0xF#4 ++ x ++ 0x15#8) = .ok (.ldDTX x.toFin)) ∧
  ∀ (x : RegIdx) (s : State),
    (∃ t, exec (.ldXDT x) s = .next t ∧ t.getV x = s.DT ∧ EndsAt s.pc { regs := [x] } s t) ∧
    (∃ t, exec (.ldDTX x) s = .next t ∧ t.DT = s.getV x ∧ t.ST = s.ST ∧ EndsAt s.pc { timers := true } s t)

/-- R113, R126: ST is written whole, and the tone level follows it (the spec's decision D20). -/
def Obligations.SoundTimerIsWritten : Prop :=
  (∀ x : Nibble, decode (0xF#4 ++ x ++ 0x18#8) = .ok (.ldSTX x.toFin)) ∧
  ∀ (x : RegIdx) (s : State), ∃ t, exec (.ldSTX x) s = .next t ∧ t.ST = s.getV x ∧ t.DT = s.DT ∧
    (t.soundActive = true ↔ s.getV x ≠ 0) ∧ EndsAt s.pc { timers := true } s t

/-- R111: the least key down goes to Vx; with none down pc goes back to p and nothing else changes (the spec's
decision D29). -/
def Obligations.KeyWaitTakesTheLeastKey : Prop :=
  (∀ x : Nibble, decode (0xF#4 ++ x ++ 0x0A#8) = .ok (.ldXK x.toFin)) ∧
  ∀ (x : RegIdx) (s : State),
    (∀ k : RegIdx, s.key.get k = true → (∀ j, j < k → s.key.get j = false) →
      ∃ t, exec (.ldXK x) s = .next t ∧ (t.getV x).toNat = k.val ∧ EndsAt s.pc { regs := [x] } s t) ∧
    ((∀ k, s.key.get k = false) → exec (.ldXK x) s = .next { s with pc := s.pc - 2, lastCond := .none })

/-- R111 (the spec's decision D29), R146: over whole steps, with no key down `Fx0A` stays where it is and changes
nothing but `last_cond`. -/
def Obligations.KeyWaitStaysInPlace : Prop :=
  ∀ (s : State) (x : RegIdx), s.halt = .none → s.pc.toNat ≤ 0xFFE → decode s.fetchWord = .ok (.ldXK x) →
    (∀ k, s.key.get k = false) → step s = .next { s with lastCond := .none }

/-! ### The host's verbs (60_exceptions.md, 70_reset_and_hazards.md) -/

/-- R125: each timer above zero goes down by one, the stop tone is the tick that takes ST from 1 to 0, and nothing
else changes. -/
def Obligations.TickCountsDown : Prop :=
  ∀ s : State, s.apply .tick = .next (s.tick.1, .stopTone s.tick.2) ∧
    s.tick.1 = { s with DT := s.tick.1.DT, ST := s.tick.1.ST } ∧
    s.tick.1.DT.toNat = (if 0 < s.DT.toNat then s.DT.toNat - 1 else 0) ∧
    s.tick.1.ST.toNat = (if 0 < s.ST.toNat then s.ST.toNat - 1 else 0) ∧
    (s.tick.2 = true ↔ 0 < s.ST.toNat ∧ s.tick.1.ST.toNat = 0)

/-- R125 repeated, as R149 lets the host do (the spec's decision D22): after n ticks each timer has lost n, stopping
at zero. -/
def Obligations.TicksReachZero : Prop :=
  ∀ (n : Nat) (s : State), ∃ t, s.applyAll (List.replicate n .tick) = .next t ∧
    t = { s with DT := t.DT, ST := t.ST } ∧ t.DT.toNat = s.DT.toNat - n ∧ t.ST.toNat = s.ST.toNat - n

/-- R11, R137: the reset verb leaves every element at its reset value, from any state (the spec's decision D19). That
the parameters and the draws stay is the model's choice (log entries 2 and 3). -/
def Obligations.ResetClearsEveryElement : Prop :=
  ∀ s : State, s.apply .reset = .next (s.resetVerb, .nothing) ∧
    (∀ a, s.resetVerb.mem.read a = if h : a < 80 then s.params.font[a] else 0) ∧
    (∀ x, s.resetVerb.getV x = 0) ∧ s.resetVerb.I = 0 ∧ s.resetVerb.pc = 0x200 ∧
    (∀ k : Fin 16, s.resetVerb.stack.get k = 0) ∧ s.resetVerb.sp = 0 ∧ s.resetVerb.DT = 0 ∧ s.resetVerb.ST = 0 ∧
    (∀ k : Fin 16, s.resetVerb.key.get k = false) ∧ (∀ y x, s.resetVerb.disp.cell y x = false) ∧
    s.resetVerb.dirty = false ∧ s.resetVerb.halt = .none ∧ s.resetVerb.lastCond = .none ∧
    s.resetVerb.lastInfo = { pc := 0, word := 0, kind := .none, addr := 0 } ∧ s.resetVerb.seen = 0 ∧
    s.resetVerb.params = s.params ∧ s.resetVerb.drawIn = s.drawIn ∧ s.resetVerb.drawCount = s.drawCount

/-- R140: an image of more than 3584 bytes is refused and changes nothing; any other is accepted. R139 (the spec's
decision D21): its bytes then stand from 0x200 on, and nothing else changes. -/
def Obligations.LoadAcceptsUpToRomMax : Prop :=
  ∀ (s : State) (bytes : List Byte),
    (3584 < bytes.length → s.apply (.load bytes) = .next (s, .loaded .romTooLarge)) ∧
    (bytes.length ≤ 3584 → ∃ t, s.apply (.load bytes) = .next (t, .loaded .ok) ∧ t = { s with mem := t.mem } ∧
      (∀ (k : Nat) (h : k < bytes.length), t.mem.read (0x200 + k) = bytes[k]) ∧
      ∀ a, a < 0x200 ∨ 0x200 + bytes.length ≤ a → t.mem.read a = s.mem.read a)

/-- R129, R131, R133: a key write writes that key, an acknowledge clears dirty and no cell, an observation changes
nothing (the spec's decisions D18, D31 and D33). -/
def Obligations.KeyWriteAcknowledgeAndObserve : Prop :=
  ∀ (s : State) (k : RegIdx) (b : Bool),
    (∃ t, s.apply (.setKey k b) = .next (t, .nothing) ∧ t = { s with key := t.key } ∧
      ∀ j : RegIdx, t.key.get j = if j = k then b else s.key.get j) ∧
    s.apply .ackDisplay = .next ({ s with dirty := false }, .nothing) ∧
    s.apply .observe = .next (s, .view s (decide (s.ST ≠ 0)))

/-- R61, R115, R121 and R138 (the spec's decisions D8, D17 and D30; R138 an inference the spec marks as its own):
without a reset no sequence of verbs clears a bit of `seen`, and none brings the halted block to run or changes a
register, the stack or the display of it. -/
def Obligations.OnlyResetEndsTheHalt : Prop :=
  ∀ (vs : List Verb) (s t : State), Verb.reset ∉ vs → s.applyAll vs = .next t →
    s.seen &&& t.seen = s.seen ∧
    (s.halt ≠ .none → t.halt = s.halt ∧ t.pc = s.pc ∧ t.V = s.V ∧ t.I = s.I ∧ t.stack = s.stack ∧ t.sp = s.sp ∧
      t.disp = s.disp ∧ t.lastCond = s.lastCond ∧ t.lastInfo = s.lastInfo ∧ t.seen = s.seen)
end

