-- ==== Sys2Proof/Laws/Decode.lean ====
section
/-! SUPPORT. The fields of an encoded word, one lemma a format and field: reading a field back gives what the
encoder put there. -/

namespace Sys2Proof

@[simp] theorem nib_toFin (x : Fin 16) : (nib x).toFin = x := rfl

@[simp] theorem nib_of_toFin (u : Nibble) : nib u.toFin = u := rfl

/-! ### The bits of an encoded word -/

theorem bit_wordN (op : Nibble) (nnn : Addr) (i : Nat) :
    (wordN op nnn).getLsbD i = if i < 12 then nnn.getLsbD i else op.getLsbD (i - 12) := by
  refine (BitVec.getLsbD_append (x := op) (y := nnn) (i := i)).trans ?_
  by_cases h : i < 12 <;> simp [h]

theorem bit_wordXNN (op : Nibble) (x : RegIdx) (nn : Byte) (i : Nat) :
    (wordXNN op x nn).getLsbD i =
      if i < 8 then nn.getLsbD i else if i < 12 then (nib x).getLsbD (i - 8) else op.getLsbD (i - 12) := by
  refine (BitVec.getLsbD_append (x := op ++ nib x) (y := nn) (i := i)).trans ?_
  rw [BitVec.getLsbD_append (x := op) (y := nib x)]
  by_cases h : i < 8
  · simp [h]
  · by_cases h' : i < 12
    · simp [h, h', show i - 8 < 4 by omega]
    · simp [h, h', show ¬ i - 8 < 4 by omega, show i - 8 - 4 = i - 12 by omega]

theorem wordXYN_eq (op : Nibble) (x y : RegIdx) (n : Nibble) : wordXYN op x y n = wordXNN op x (nib y ++ n) := by
  unfold wordXYN wordXNN; exact BitVec.append_assoc

theorem bit_wordXYN (op : Nibble) (x y : RegIdx) (n : Nibble) (i : Nat) :
    (wordXYN op x y n).getLsbD i =
      if i < 4 then n.getLsbD i else if i < 8 then (nib y).getLsbD (i - 4)
      else if i < 12 then (nib x).getLsbD (i - 8) else op.getLsbD (i - 12) := by
  rw [wordXYN_eq, bit_wordXNN, BitVec.getLsbD_append (x := nib y) (y := n)]
  by_cases h4 : i < 4
  · simp [h4, show i < 8 by omega]
  · by_cases h8 : i < 8 <;> simp [h4, h8]

theorem wordZ_eq (u : Nibble) (nn : Byte) : wordZ u nn = wordXNN 0 u.toFin nn := rfl

/-! ### The fields (30_encoding.md R49) -/

theorem fieldOp_wordN (op : Nibble) (nnn : Addr) : fieldOp (wordN op nnn) = op := by
  apply BitVec.eq_of_getLsbD_eq; intro i h; simp [fieldOp, bit_wordN, h]

theorem fieldNNN_wordN (op : Nibble) (nnn : Addr) : fieldNNN (wordN op nnn) = nnn := by
  apply BitVec.eq_of_getLsbD_eq; intro i h; simp [fieldNNN, bit_wordN, h]

theorem fieldNN_wordN (op : Nibble) (nnn : Addr) : fieldNN (wordN op nnn) = nnn.extractLsb' 0 8 := by
  apply BitVec.eq_of_getLsbD_eq; intro i h; simp [fieldNN, bit_wordN, h, show i < 12 by omega]

theorem fieldOp_wordXNN (op : Nibble) (x : RegIdx) (nn : Byte) : fieldOp (wordXNN op x nn) = op := by
  apply BitVec.eq_of_getLsbD_eq; intro i h; simp [fieldOp, bit_wordXNN, h, show ¬ 12 + i < 8 by omega]

theorem fieldHi_wordXNN (op : Nibble) (x : RegIdx) (nn : Byte) : fieldHi (wordXNN op x nn) = nib x := by
  apply BitVec.eq_of_getLsbD_eq; intro i h; simp [fieldHi, bit_wordXNN, h, show 8 + i < 12 by omega]

theorem fieldX_wordXNN (op : Nibble) (x : RegIdx) (nn : Byte) : fieldX (wordXNN op x nn) = x := by
  simp [fieldX, fieldHi_wordXNN]

theorem fieldNN_wordXNN (op : Nibble) (x : RegIdx) (nn : Byte) : fieldNN (wordXNN op x nn) = nn := by
  apply BitVec.eq_of_getLsbD_eq; intro i h; simp [fieldNN, bit_wordXNN, h]

theorem fieldOp_wordXYN (op : Nibble) (x y : RegIdx) (n : Nibble) : fieldOp (wordXYN op x y n) = op := by
  rw [wordXYN_eq, fieldOp_wordXNN]

theorem fieldX_wordXYN (op : Nibble) (x y : RegIdx) (n : Nibble) : fieldX (wordXYN op x y n) = x := by
  rw [wordXYN_eq, fieldX_wordXNN]

theorem fieldY_wordXYN (op : Nibble) (x y : RegIdx) (n : Nibble) : fieldY (wordXYN op x y n) = y := by
  have : (wordXYN op x y n).extractLsb' 4 4 = nib y := by
    apply BitVec.eq_of_getLsbD_eq; intro i h
    simp [bit_wordXYN, h, show 4 + i < 8 by omega]
  simp [fieldY, this]

theorem fieldLo_wordXYN (op : Nibble) (x y : RegIdx) (n : Nibble) : fieldLo (wordXYN op x y n) = n := by
  apply BitVec.eq_of_getLsbD_eq; intro i h
  simp [fieldLo, bit_wordXYN, h]

theorem fieldN_wordXYN (op : Nibble) (x y n : RegIdx) : fieldN (wordXYN op x y (nib n)) = n := by
  simp [fieldN, fieldLo_wordXYN]

theorem fieldOp_wordZ (u : Nibble) (nn : Byte) : fieldOp (wordZ u nn) = 0 := by
  rw [wordZ_eq, fieldOp_wordXNN]

theorem fieldHi_wordZ (u : Nibble) (nn : Byte) : fieldHi (wordZ u nn) = u := by
  rw [wordZ_eq, fieldHi_wordXNN, nib_of_toFin]

theorem fieldNN_wordZ (u : Nibble) (nn : Byte) : fieldNN (wordZ u nn) = nn := by
  rw [wordZ_eq, fieldNN_wordXNN]

/-! ### A word is made of its fields -/

theorem word_N (w : Word) : wordN (fieldOp w) (fieldNNN w) = w := by
  apply BitVec.eq_of_getLsbD_eq; intro i h
  rw [bit_wordN]; unfold fieldOp fieldNNN
  by_cases h' : i < 12
  · simp [h']
  · simp [h', show i - 12 < 4 by omega, show 12 + (i - 12) = i by omega]

theorem word_XNN (w : Word) : wordXNN (fieldOp w) (fieldX w) (fieldNN w) = w := by
  apply BitVec.eq_of_getLsbD_eq; intro i h
  rw [bit_wordXNN]; unfold fieldOp fieldNN fieldX; rw [nib_of_toFin]; unfold fieldHi
  by_cases h8 : i < 8
  · simp [h8]
  by_cases h' : i < 12
  · simp [h8, h', show i - 8 < 4 by omega, show 8 + (i - 8) = i by omega]
  · simp [h8, h', show i - 12 < 4 by omega, show 12 + (i - 12) = i by omega]

theorem word_XYN (w : Word) : wordXYN (fieldOp w) (fieldX w) (fieldY w) (fieldLo w) = w := by
  apply BitVec.eq_of_getLsbD_eq; intro i h
  rw [bit_wordXYN]; unfold fieldOp fieldX fieldY fieldLo; rw [nib_of_toFin, nib_of_toFin]; unfold fieldHi
  by_cases h4 : i < 4
  · simp [h4]
  by_cases h8 : i < 8
  · simp [h4, h8, show i - 4 < 4 by omega, show 4 + (i - 4) = i by omega]
  by_cases h' : i < 12
  · simp [h4, h8, h', show i - 8 < 4 by omega, show 8 + (i - 8) = i by omega]
  · simp [h4, h8, h', show i - 12 < 4 by omega, show 12 + (i - 12) = i by omega]

/-! ### Masks (R59) -/

theorem mask_F000_wordN (op : Nibble) (nnn : Addr) : wordN op nnn &&& 0xF000#16 = wordN op 0 := by
  apply BitVec.eq_of_getLsbD_eq; intro i h
  rw [BitVec.getLsbD_and, bit_wordN, bit_wordN]
  by_cases h' : i < 12
  · interval_cases i <;> simp
  · interval_cases i <;> simp_all

theorem mask_F000_wordXNN (op : Nibble) (x : RegIdx) (nn : Byte) : wordXNN op x nn &&& 0xF000#16 = wordN op 0 := by
  apply BitVec.eq_of_getLsbD_eq; intro i h
  rw [BitVec.getLsbD_and, bit_wordXNN, bit_wordN]
  interval_cases i <;> simp

theorem mask_F0FF_wordXNN (op : Nibble) (x : RegIdx) (nn : Byte) :
    wordXNN op x nn &&& 0xF0FF#16 = wordXNN op 0 nn := by
  apply BitVec.eq_of_getLsbD_eq; intro i h
  rw [BitVec.getLsbD_and, bit_wordXNN, bit_wordXNN]
  interval_cases i <;> simp [nib]

theorem mask_F00F_wordXYN (op : Nibble) (x y : RegIdx) (n : Nibble) :
    wordXYN op x y n &&& 0xF00F#16 = wordXYN op 0 0 n := by
  apply BitVec.eq_of_getLsbD_eq; intro i h
  rw [BitVec.getLsbD_and, bit_wordXYN, bit_wordXYN]
  interval_cases i <;> simp [nib]

end Sys2Proof
end

