-- ==== Sys2Proof/Laws/State.lean ====
section
/-! SUPPORT. What each named update of State leaves in each field, one lemma a field and update, so that no proof
unfolds a record update. -/

namespace Sys2Proof.Machine

/-! ### setV -/

@[simp] theorem State.setV_mem (s : State) (x : RegIdx) (b : Byte) : (s.setV x b).mem = s.mem := rfl
@[simp] theorem State.setV_V (s : State) (x : RegIdx) (b : Byte) : (s.setV x b).V = s.V.set x.val b x.isLt := rfl
@[simp] theorem State.setV_I (s : State) (x : RegIdx) (b : Byte) : (s.setV x b).I = s.I := rfl
@[simp] theorem State.setV_pc (s : State) (x : RegIdx) (b : Byte) : (s.setV x b).pc = s.pc := rfl
@[simp] theorem State.setV_stack (s : State) (x : RegIdx) (b : Byte) : (s.setV x b).stack = s.stack := rfl
@[simp] theorem State.setV_sp (s : State) (x : RegIdx) (b : Byte) : (s.setV x b).sp = s.sp := rfl
@[simp] theorem State.setV_DT (s : State) (x : RegIdx) (b : Byte) : (s.setV x b).DT = s.DT := rfl
@[simp] theorem State.setV_ST (s : State) (x : RegIdx) (b : Byte) : (s.setV x b).ST = s.ST := rfl
@[simp] theorem State.setV_key (s : State) (x : RegIdx) (b : Byte) : (s.setV x b).key = s.key := rfl
@[simp] theorem State.setV_disp (s : State) (x : RegIdx) (b : Byte) : (s.setV x b).disp = s.disp := rfl
@[simp] theorem State.setV_dirty (s : State) (x : RegIdx) (b : Byte) : (s.setV x b).dirty = s.dirty := rfl
@[simp] theorem State.setV_halt (s : State) (x : RegIdx) (b : Byte) : (s.setV x b).halt = s.halt := rfl
@[simp] theorem State.setV_lastCond (s : State) (x : RegIdx) (b : Byte) : (s.setV x b).lastCond = s.lastCond := rfl
@[simp] theorem State.setV_lastInfo (s : State) (x : RegIdx) (b : Byte) : (s.setV x b).lastInfo = s.lastInfo := rfl
@[simp] theorem State.setV_seen (s : State) (x : RegIdx) (b : Byte) : (s.setV x b).seen = s.seen := rfl
@[simp] theorem State.setV_params (s : State) (x : RegIdx) (b : Byte) : (s.setV x b).params = s.params := rfl
@[simp] theorem State.setV_drawIn (s : State) (x : RegIdx) (b : Byte) : (s.setV x b).drawIn = s.drawIn := rfl
@[simp] theorem State.setV_drawCount (s : State) (x : RegIdx) (b : Byte) : (s.setV x b).drawCount = s.drawCount := rfl

/-! ### setI -/

@[simp] theorem State.setI_mem (s : State) (v : Word) : (s.setI v).mem = s.mem := rfl
@[simp] theorem State.setI_V (s : State) (v : Word) : (s.setI v).V = s.V := rfl
@[simp] theorem State.setI_I (s : State) (v : Word) : (s.setI v).I = v := rfl
@[simp] theorem State.setI_pc (s : State) (v : Word) : (s.setI v).pc = s.pc := rfl
@[simp] theorem State.setI_stack (s : State) (v : Word) : (s.setI v).stack = s.stack := rfl
@[simp] theorem State.setI_sp (s : State) (v : Word) : (s.setI v).sp = s.sp := rfl
@[simp] theorem State.setI_DT (s : State) (v : Word) : (s.setI v).DT = s.DT := rfl
@[simp] theorem State.setI_ST (s : State) (v : Word) : (s.setI v).ST = s.ST := rfl
@[simp] theorem State.setI_key (s : State) (v : Word) : (s.setI v).key = s.key := rfl
@[simp] theorem State.setI_disp (s : State) (v : Word) : (s.setI v).disp = s.disp := rfl
@[simp] theorem State.setI_dirty (s : State) (v : Word) : (s.setI v).dirty = s.dirty := rfl
@[simp] theorem State.setI_halt (s : State) (v : Word) : (s.setI v).halt = s.halt := rfl
@[simp] theorem State.setI_lastCond (s : State) (v : Word) : (s.setI v).lastCond = s.lastCond := rfl
@[simp] theorem State.setI_lastInfo (s : State) (v : Word) : (s.setI v).lastInfo = s.lastInfo := rfl
@[simp] theorem State.setI_seen (s : State) (v : Word) : (s.setI v).seen = s.seen := rfl
@[simp] theorem State.setI_params (s : State) (v : Word) : (s.setI v).params = s.params := rfl
@[simp] theorem State.setI_drawIn (s : State) (v : Word) : (s.setI v).drawIn = s.drawIn := rfl
@[simp] theorem State.setI_drawCount (s : State) (v : Word) : (s.setI v).drawCount = s.drawCount := rfl
@[simp] theorem State.setI_getV (s : State) (v : Word) (r : RegIdx) : (s.setI v).getV r = s.getV r := rfl

/-! ### setDT -/

@[simp] theorem State.setDT_mem (s : State) (b : Byte) : (s.setDT b).mem = s.mem := rfl
@[simp] theorem State.setDT_V (s : State) (b : Byte) : (s.setDT b).V = s.V := rfl
@[simp] theorem State.setDT_I (s : State) (b : Byte) : (s.setDT b).I = s.I := rfl
@[simp] theorem State.setDT_pc (s : State) (b : Byte) : (s.setDT b).pc = s.pc := rfl
@[simp] theorem State.setDT_stack (s : State) (b : Byte) : (s.setDT b).stack = s.stack := rfl
@[simp] theorem State.setDT_sp (s : State) (b : Byte) : (s.setDT b).sp = s.sp := rfl
@[simp] theorem State.setDT_DT (s : State) (b : Byte) : (s.setDT b).DT = b := rfl
@[simp] theorem State.setDT_ST (s : State) (b : Byte) : (s.setDT b).ST = s.ST := rfl
@[simp] theorem State.setDT_key (s : State) (b : Byte) : (s.setDT b).key = s.key := rfl
@[simp] theorem State.setDT_disp (s : State) (b : Byte) : (s.setDT b).disp = s.disp := rfl
@[simp] theorem State.setDT_dirty (s : State) (b : Byte) : (s.setDT b).dirty = s.dirty := rfl
@[simp] theorem State.setDT_halt (s : State) (b : Byte) : (s.setDT b).halt = s.halt := rfl
@[simp] theorem State.setDT_lastCond (s : State) (b : Byte) : (s.setDT b).lastCond = s.lastCond := rfl
@[simp] theorem State.setDT_lastInfo (s : State) (b : Byte) : (s.setDT b).lastInfo = s.lastInfo := rfl
@[simp] theorem State.setDT_seen (s : State) (b : Byte) : (s.setDT b).seen = s.seen := rfl
@[simp] theorem State.setDT_params (s : State) (b : Byte) : (s.setDT b).params = s.params := rfl
@[simp] theorem State.setDT_drawIn (s : State) (b : Byte) : (s.setDT b).drawIn = s.drawIn := rfl
@[simp] theorem State.setDT_drawCount (s : State) (b : Byte) : (s.setDT b).drawCount = s.drawCount := rfl
@[simp] theorem State.setDT_getV (s : State) (b : Byte) (r : RegIdx) : (s.setDT b).getV r = s.getV r := rfl

/-! ### setST -/

@[simp] theorem State.setST_mem (s : State) (b : Byte) : (s.setST b).mem = s.mem := rfl
@[simp] theorem State.setST_V (s : State) (b : Byte) : (s.setST b).V = s.V := rfl
@[simp] theorem State.setST_I (s : State) (b : Byte) : (s.setST b).I = s.I := rfl
@[simp] theorem State.setST_pc (s : State) (b : Byte) : (s.setST b).pc = s.pc := rfl
@[simp] theorem State.setST_stack (s : State) (b : Byte) : (s.setST b).stack = s.stack := rfl
@[simp] theorem State.setST_sp (s : State) (b : Byte) : (s.setST b).sp = s.sp := rfl
@[simp] theorem State.setST_DT (s : State) (b : Byte) : (s.setST b).DT = s.DT := rfl
@[simp] theorem State.setST_ST (s : State) (b : Byte) : (s.setST b).ST = b := rfl
@[simp] theorem State.setST_key (s : State) (b : Byte) : (s.setST b).key = s.key := rfl
@[simp] theorem State.setST_disp (s : State) (b : Byte) : (s.setST b).disp = s.disp := rfl
@[simp] theorem State.setST_dirty (s : State) (b : Byte) : (s.setST b).dirty = s.dirty := rfl
@[simp] theorem State.setST_halt (s : State) (b : Byte) : (s.setST b).halt = s.halt := rfl
@[simp] theorem State.setST_lastCond (s : State) (b : Byte) : (s.setST b).lastCond = s.lastCond := rfl
@[simp] theorem State.setST_lastInfo (s : State) (b : Byte) : (s.setST b).lastInfo = s.lastInfo := rfl
@[simp] theorem State.setST_seen (s : State) (b : Byte) : (s.setST b).seen = s.seen := rfl
@[simp] theorem State.setST_params (s : State) (b : Byte) : (s.setST b).params = s.params := rfl
@[simp] theorem State.setST_drawIn (s : State) (b : Byte) : (s.setST b).drawIn = s.drawIn := rfl
@[simp] theorem State.setST_drawCount (s : State) (b : Byte) : (s.setST b).drawCount = s.drawCount := rfl
@[simp] theorem State.setST_getV (s : State) (b : Byte) (r : RegIdx) : (s.setST b).getV r = s.getV r := rfl

/-! ### store -/

@[simp] theorem State.store_mem (s : State) (a : Nat) (bs : List Byte) : (s.store a bs).mem = s.mem.writeBytes a bs := rfl
@[simp] theorem State.store_V (s : State) (a : Nat) (bs : List Byte) : (s.store a bs).V = s.V := rfl
@[simp] theorem State.store_I (s : State) (a : Nat) (bs : List Byte) : (s.store a bs).I = s.I := rfl
@[simp] theorem State.store_pc (s : State) (a : Nat) (bs : List Byte) : (s.store a bs).pc = s.pc := rfl
@[simp] theorem State.store_stack (s : State) (a : Nat) (bs : List Byte) : (s.store a bs).stack = s.stack := rfl
@[simp] theorem State.store_sp (s : State) (a : Nat) (bs : List Byte) : (s.store a bs).sp = s.sp := rfl
@[simp] theorem State.store_DT (s : State) (a : Nat) (bs : List Byte) : (s.store a bs).DT = s.DT := rfl
@[simp] theorem State.store_ST (s : State) (a : Nat) (bs : List Byte) : (s.store a bs).ST = s.ST := rfl
@[simp] theorem State.store_key (s : State) (a : Nat) (bs : List Byte) : (s.store a bs).key = s.key := rfl
@[simp] theorem State.store_disp (s : State) (a : Nat) (bs : List Byte) : (s.store a bs).disp = s.disp := rfl
@[simp] theorem State.store_dirty (s : State) (a : Nat) (bs : List Byte) : (s.store a bs).dirty = s.dirty := rfl
@[simp] theorem State.store_halt (s : State) (a : Nat) (bs : List Byte) : (s.store a bs).halt = s.halt := rfl
@[simp] theorem State.store_lastCond (s : State) (a : Nat) (bs : List Byte) : (s.store a bs).lastCond = s.lastCond := rfl
@[simp] theorem State.store_lastInfo (s : State) (a : Nat) (bs : List Byte) : (s.store a bs).lastInfo = s.lastInfo := rfl
@[simp] theorem State.store_seen (s : State) (a : Nat) (bs : List Byte) : (s.store a bs).seen = s.seen := rfl
@[simp] theorem State.store_params (s : State) (a : Nat) (bs : List Byte) : (s.store a bs).params = s.params := rfl
@[simp] theorem State.store_drawIn (s : State) (a : Nat) (bs : List Byte) : (s.store a bs).drawIn = s.drawIn := rfl
@[simp] theorem State.store_drawCount (s : State) (a : Nat) (bs : List Byte) : (s.store a bs).drawCount = s.drawCount := rfl
@[simp] theorem State.store_getV (s : State) (a : Nat) (bs : List Byte) (r : RegIdx) : (s.store a bs).getV r = s.getV r := rfl

/-! ### show -/

@[simp] theorem State.show_mem (s : State) (d : Display) : (s.show d).mem = s.mem := rfl
@[simp] theorem State.show_V (s : State) (d : Display) : (s.show d).V = s.V := rfl
@[simp] theorem State.show_I (s : State) (d : Display) : (s.show d).I = s.I := rfl
@[simp] theorem State.show_pc (s : State) (d : Display) : (s.show d).pc = s.pc := rfl
@[simp] theorem State.show_stack (s : State) (d : Display) : (s.show d).stack = s.stack := rfl
@[simp] theorem State.show_sp (s : State) (d : Display) : (s.show d).sp = s.sp := rfl
@[simp] theorem State.show_DT (s : State) (d : Display) : (s.show d).DT = s.DT := rfl
@[simp] theorem State.show_ST (s : State) (d : Display) : (s.show d).ST = s.ST := rfl
@[simp] theorem State.show_key (s : State) (d : Display) : (s.show d).key = s.key := rfl
@[simp] theorem State.show_disp (s : State) (d : Display) : (s.show d).disp = d := rfl
@[simp] theorem State.show_dirty (s : State) (d : Display) : (s.show d).dirty = true := rfl
@[simp] theorem State.show_halt (s : State) (d : Display) : (s.show d).halt = s.halt := rfl
@[simp] theorem State.show_lastCond (s : State) (d : Display) : (s.show d).lastCond = s.lastCond := rfl
@[simp] theorem State.show_lastInfo (s : State) (d : Display) : (s.show d).lastInfo = s.lastInfo := rfl
@[simp] theorem State.show_seen (s : State) (d : Display) : (s.show d).seen = s.seen := rfl
@[simp] theorem State.show_params (s : State) (d : Display) : (s.show d).params = s.params := rfl
@[simp] theorem State.show_drawIn (s : State) (d : Display) : (s.show d).drawIn = s.drawIn := rfl
@[simp] theorem State.show_drawCount (s : State) (d : Display) : (s.show d).drawCount = s.drawCount := rfl
@[simp] theorem State.show_getV (s : State) (d : Display) (r : RegIdx) : (s.show d).getV r = s.getV r := rfl

/-! ### quiet -/

@[simp] theorem State.quiet_mem (s : State) : s.quiet.mem = s.mem := rfl
@[simp] theorem State.quiet_V (s : State) : s.quiet.V = s.V := rfl
@[simp] theorem State.quiet_I (s : State) : s.quiet.I = s.I := rfl
@[simp] theorem State.quiet_pc (s : State) : s.quiet.pc = s.pc := rfl
@[simp] theorem State.quiet_stack (s : State) : s.quiet.stack = s.stack := rfl
@[simp] theorem State.quiet_sp (s : State) : s.quiet.sp = s.sp := rfl
@[simp] theorem State.quiet_DT (s : State) : s.quiet.DT = s.DT := rfl
@[simp] theorem State.quiet_ST (s : State) : s.quiet.ST = s.ST := rfl
@[simp] theorem State.quiet_key (s : State) : s.quiet.key = s.key := rfl
@[simp] theorem State.quiet_disp (s : State) : s.quiet.disp = s.disp := rfl
@[simp] theorem State.quiet_dirty (s : State) : s.quiet.dirty = s.dirty := rfl
@[simp] theorem State.quiet_halt (s : State) : s.quiet.halt = s.halt := rfl
@[simp] theorem State.quiet_lastCond (s : State) : s.quiet.lastCond = .none := rfl
@[simp] theorem State.quiet_lastInfo (s : State) : s.quiet.lastInfo = s.lastInfo := rfl
@[simp] theorem State.quiet_seen (s : State) : s.quiet.seen = s.seen := rfl
@[simp] theorem State.quiet_params (s : State) : s.quiet.params = s.params := rfl
@[simp] theorem State.quiet_drawIn (s : State) : s.quiet.drawIn = s.drawIn := rfl
@[simp] theorem State.quiet_drawCount (s : State) : s.quiet.drawCount = s.drawCount := rfl
@[simp] theorem State.quiet_getV (s : State) (r : RegIdx) : s.quiet.getV r = s.getV r := rfl

/-! ### advance -/

@[simp] theorem State.advance_mem (s : State) : s.advance.mem = s.mem := rfl
@[simp] theorem State.advance_V (s : State) : s.advance.V = s.V := rfl
@[simp] theorem State.advance_I (s : State) : s.advance.I = s.I := rfl
@[simp] theorem State.advance_pc (s : State) : s.advance.pc = s.pc + 2 := rfl
@[simp] theorem State.advance_stack (s : State) : s.advance.stack = s.stack := rfl
@[simp] theorem State.advance_sp (s : State) : s.advance.sp = s.sp := rfl
@[simp] theorem State.advance_DT (s : State) : s.advance.DT = s.DT := rfl
@[simp] theorem State.advance_ST (s : State) : s.advance.ST = s.ST := rfl
@[simp] theorem State.advance_key (s : State) : s.advance.key = s.key := rfl
@[simp] theorem State.advance_disp (s : State) : s.advance.disp = s.disp := rfl
@[simp] theorem State.advance_dirty (s : State) : s.advance.dirty = s.dirty := rfl
@[simp] theorem State.advance_halt (s : State) : s.advance.halt = s.halt := rfl
@[simp] theorem State.advance_lastCond (s : State) : s.advance.lastCond = s.lastCond := rfl
@[simp] theorem State.advance_lastInfo (s : State) : s.advance.lastInfo = s.lastInfo := rfl
@[simp] theorem State.advance_seen (s : State) : s.advance.seen = s.seen := rfl
@[simp] theorem State.advance_params (s : State) : s.advance.params = s.params := rfl
@[simp] theorem State.advance_drawIn (s : State) : s.advance.drawIn = s.drawIn := rfl
@[simp] theorem State.advance_drawCount (s : State) : s.advance.drawCount = s.drawCount := rfl
@[simp] theorem State.advance_getV (s : State) (r : RegIdx) : s.advance.getV r = s.getV r := rfl

/-! ### jumpTo -/

@[simp] theorem State.jumpTo_mem (s : State) (w : Word) : (s.jumpTo w).mem = s.mem := rfl
@[simp] theorem State.jumpTo_V (s : State) (w : Word) : (s.jumpTo w).V = s.V := rfl
@[simp] theorem State.jumpTo_I (s : State) (w : Word) : (s.jumpTo w).I = s.I := rfl
@[simp] theorem State.jumpTo_pc (s : State) (w : Word) : (s.jumpTo w).pc = w := rfl
@[simp] theorem State.jumpTo_stack (s : State) (w : Word) : (s.jumpTo w).stack = s.stack := rfl
@[simp] theorem State.jumpTo_sp (s : State) (w : Word) : (s.jumpTo w).sp = s.sp := rfl
@[simp] theorem State.jumpTo_DT (s : State) (w : Word) : (s.jumpTo w).DT = s.DT := rfl
@[simp] theorem State.jumpTo_ST (s : State) (w : Word) : (s.jumpTo w).ST = s.ST := rfl
@[simp] theorem State.jumpTo_key (s : State) (w : Word) : (s.jumpTo w).key = s.key := rfl
@[simp] theorem State.jumpTo_disp (s : State) (w : Word) : (s.jumpTo w).disp = s.disp := rfl
@[simp] theorem State.jumpTo_dirty (s : State) (w : Word) : (s.jumpTo w).dirty = s.dirty := rfl
@[simp] theorem State.jumpTo_halt (s : State) (w : Word) : (s.jumpTo w).halt = s.halt := rfl
@[simp] theorem State.jumpTo_lastCond (s : State) (w : Word) : (s.jumpTo w).lastCond = s.lastCond := rfl
@[simp] theorem State.jumpTo_lastInfo (s : State) (w : Word) : (s.jumpTo w).lastInfo = s.lastInfo := rfl
@[simp] theorem State.jumpTo_seen (s : State) (w : Word) : (s.jumpTo w).seen = s.seen := rfl
@[simp] theorem State.jumpTo_params (s : State) (w : Word) : (s.jumpTo w).params = s.params := rfl
@[simp] theorem State.jumpTo_drawIn (s : State) (w : Word) : (s.jumpTo w).drawIn = s.drawIn := rfl
@[simp] theorem State.jumpTo_drawCount (s : State) (w : Word) : (s.jumpTo w).drawCount = s.drawCount := rfl
@[simp] theorem State.jumpTo_getV (s : State) (w : Word) (r : RegIdx) : (s.jumpTo w).getV r = s.getV r := rfl

/-! ### drawTaken -/

@[simp] theorem State.drawTaken_mem (s : State) : s.drawTaken.mem = s.mem := rfl
@[simp] theorem State.drawTaken_V (s : State) : s.drawTaken.V = s.V := rfl
@[simp] theorem State.drawTaken_I (s : State) : s.drawTaken.I = s.I := rfl
@[simp] theorem State.drawTaken_pc (s : State) : s.drawTaken.pc = s.pc := rfl
@[simp] theorem State.drawTaken_stack (s : State) : s.drawTaken.stack = s.stack := rfl
@[simp] theorem State.drawTaken_sp (s : State) : s.drawTaken.sp = s.sp := rfl
@[simp] theorem State.drawTaken_DT (s : State) : s.drawTaken.DT = s.DT := rfl
@[simp] theorem State.drawTaken_ST (s : State) : s.drawTaken.ST = s.ST := rfl
@[simp] theorem State.drawTaken_key (s : State) : s.drawTaken.key = s.key := rfl
@[simp] theorem State.drawTaken_disp (s : State) : s.drawTaken.disp = s.disp := rfl
@[simp] theorem State.drawTaken_dirty (s : State) : s.drawTaken.dirty = s.dirty := rfl
@[simp] theorem State.drawTaken_halt (s : State) : s.drawTaken.halt = s.halt := rfl
@[simp] theorem State.drawTaken_lastCond (s : State) : s.drawTaken.lastCond = s.lastCond := rfl
@[simp] theorem State.drawTaken_lastInfo (s : State) : s.drawTaken.lastInfo = s.lastInfo := rfl
@[simp] theorem State.drawTaken_seen (s : State) : s.drawTaken.seen = s.seen := rfl
@[simp] theorem State.drawTaken_params (s : State) : s.drawTaken.params = s.params := rfl
@[simp] theorem State.drawTaken_drawIn (s : State) : s.drawTaken.drawIn = s.drawIn := rfl
@[simp] theorem State.drawTaken_drawCount (s : State) : s.drawTaken.drawCount = s.drawCount + 1 := rfl
@[simp] theorem State.drawTaken_getV (s : State) (r : RegIdx) : s.drawTaken.getV r = s.getV r := rfl

/-! ### loadRegs -/

@[simp] theorem State.loadRegs_mem (s : State) (x : RegIdx) : (s.loadRegs x).mem = s.mem := rfl
@[simp] theorem State.loadRegs_I (s : State) (x : RegIdx) : (s.loadRegs x).I = s.I := rfl
@[simp] theorem State.loadRegs_pc (s : State) (x : RegIdx) : (s.loadRegs x).pc = s.pc := rfl
@[simp] theorem State.loadRegs_stack (s : State) (x : RegIdx) : (s.loadRegs x).stack = s.stack := rfl
@[simp] theorem State.loadRegs_sp (s : State) (x : RegIdx) : (s.loadRegs x).sp = s.sp := rfl
@[simp] theorem State.loadRegs_DT (s : State) (x : RegIdx) : (s.loadRegs x).DT = s.DT := rfl
@[simp] theorem State.loadRegs_ST (s : State) (x : RegIdx) : (s.loadRegs x).ST = s.ST := rfl
@[simp] theorem State.loadRegs_key (s : State) (x : RegIdx) : (s.loadRegs x).key = s.key := rfl
@[simp] theorem State.loadRegs_disp (s : State) (x : RegIdx) : (s.loadRegs x).disp = s.disp := rfl
@[simp] theorem State.loadRegs_dirty (s : State) (x : RegIdx) : (s.loadRegs x).dirty = s.dirty := rfl
@[simp] theorem State.loadRegs_halt (s : State) (x : RegIdx) : (s.loadRegs x).halt = s.halt := rfl
@[simp] theorem State.loadRegs_lastCond (s : State) (x : RegIdx) : (s.loadRegs x).lastCond = s.lastCond := rfl
@[simp] theorem State.loadRegs_lastInfo (s : State) (x : RegIdx) : (s.loadRegs x).lastInfo = s.lastInfo := rfl
@[simp] theorem State.loadRegs_seen (s : State) (x : RegIdx) : (s.loadRegs x).seen = s.seen := rfl
@[simp] theorem State.loadRegs_params (s : State) (x : RegIdx) : (s.loadRegs x).params = s.params := rfl
@[simp] theorem State.loadRegs_drawIn (s : State) (x : RegIdx) : (s.loadRegs x).drawIn = s.drawIn := rfl
@[simp] theorem State.loadRegs_drawCount (s : State) (x : RegIdx) : (s.loadRegs x).drawCount = s.drawCount := rfl

/-! ### setFlagged -/

@[simp] theorem State.setFlagged_mem (s : State) (x : RegIdx) (r : Byte × Byte) : (s.setFlagged x r).mem = s.mem := rfl
@[simp] theorem State.setFlagged_I (s : State) (x : RegIdx) (r : Byte × Byte) : (s.setFlagged x r).I = s.I := rfl
@[simp] theorem State.setFlagged_pc (s : State) (x : RegIdx) (r : Byte × Byte) : (s.setFlagged x r).pc = s.pc := rfl
@[simp] theorem State.setFlagged_stack (s : State) (x : RegIdx) (r : Byte × Byte) : (s.setFlagged x r).stack = s.stack := rfl
@[simp] theorem State.setFlagged_sp (s : State) (x : RegIdx) (r : Byte × Byte) : (s.setFlagged x r).sp = s.sp := rfl
@[simp] theorem State.setFlagged_DT (s : State) (x : RegIdx) (r : Byte × Byte) : (s.setFlagged x r).DT = s.DT := rfl
@[simp] theorem State.setFlagged_ST (s : State) (x : RegIdx) (r : Byte × Byte) : (s.setFlagged x r).ST = s.ST := rfl
@[simp] theorem State.setFlagged_key (s : State) (x : RegIdx) (r : Byte × Byte) : (s.setFlagged x r).key = s.key := rfl
@[simp] theorem State.setFlagged_disp (s : State) (x : RegIdx) (r : Byte × Byte) : (s.setFlagged x r).disp = s.disp := rfl
@[simp] theorem State.setFlagged_dirty (s : State) (x : RegIdx) (r : Byte × Byte) : (s.setFlagged x r).dirty = s.dirty := rfl
@[simp] theorem State.setFlagged_halt (s : State) (x : RegIdx) (r : Byte × Byte) : (s.setFlagged x r).halt = s.halt := rfl
@[simp] theorem State.setFlagged_lastCond (s : State) (x : RegIdx) (r : Byte × Byte) : (s.setFlagged x r).lastCond = s.lastCond := rfl
@[simp] theorem State.setFlagged_lastInfo (s : State) (x : RegIdx) (r : Byte × Byte) : (s.setFlagged x r).lastInfo = s.lastInfo := rfl
@[simp] theorem State.setFlagged_seen (s : State) (x : RegIdx) (r : Byte × Byte) : (s.setFlagged x r).seen = s.seen := rfl
@[simp] theorem State.setFlagged_params (s : State) (x : RegIdx) (r : Byte × Byte) : (s.setFlagged x r).params = s.params := rfl
@[simp] theorem State.setFlagged_drawIn (s : State) (x : RegIdx) (r : Byte × Byte) : (s.setFlagged x r).drawIn = s.drawIn := rfl
@[simp] theorem State.setFlagged_drawCount (s : State) (x : RegIdx) (r : Byte × Byte) : (s.setFlagged x r).drawCount = s.drawCount := rfl

/-! ### setKey -/

@[simp] theorem State.setKey_mem (s : State) (k : RegIdx) (b : Bool) : (s.setKey k b).mem = s.mem := rfl
@[simp] theorem State.setKey_V (s : State) (k : RegIdx) (b : Bool) : (s.setKey k b).V = s.V := rfl
@[simp] theorem State.setKey_I (s : State) (k : RegIdx) (b : Bool) : (s.setKey k b).I = s.I := rfl
@[simp] theorem State.setKey_pc (s : State) (k : RegIdx) (b : Bool) : (s.setKey k b).pc = s.pc := rfl
@[simp] theorem State.setKey_stack (s : State) (k : RegIdx) (b : Bool) : (s.setKey k b).stack = s.stack := rfl
@[simp] theorem State.setKey_sp (s : State) (k : RegIdx) (b : Bool) : (s.setKey k b).sp = s.sp := rfl
@[simp] theorem State.setKey_DT (s : State) (k : RegIdx) (b : Bool) : (s.setKey k b).DT = s.DT := rfl
@[simp] theorem State.setKey_ST (s : State) (k : RegIdx) (b : Bool) : (s.setKey k b).ST = s.ST := rfl
@[simp] theorem State.setKey_key (s : State) (k : RegIdx) (b : Bool) : (s.setKey k b).key = s.key.set k.val b k.isLt := rfl
@[simp] theorem State.setKey_disp (s : State) (k : RegIdx) (b : Bool) : (s.setKey k b).disp = s.disp := rfl
@[simp] theorem State.setKey_dirty (s : State) (k : RegIdx) (b : Bool) : (s.setKey k b).dirty = s.dirty := rfl
@[simp] theorem State.setKey_halt (s : State) (k : RegIdx) (b : Bool) : (s.setKey k b).halt = s.halt := rfl
@[simp] theorem State.setKey_lastCond (s : State) (k : RegIdx) (b : Bool) : (s.setKey k b).lastCond = s.lastCond := rfl
@[simp] theorem State.setKey_lastInfo (s : State) (k : RegIdx) (b : Bool) : (s.setKey k b).lastInfo = s.lastInfo := rfl
@[simp] theorem State.setKey_seen (s : State) (k : RegIdx) (b : Bool) : (s.setKey k b).seen = s.seen := rfl
@[simp] theorem State.setKey_params (s : State) (k : RegIdx) (b : Bool) : (s.setKey k b).params = s.params := rfl
@[simp] theorem State.setKey_drawIn (s : State) (k : RegIdx) (b : Bool) : (s.setKey k b).drawIn = s.drawIn := rfl
@[simp] theorem State.setKey_drawCount (s : State) (k : RegIdx) (b : Bool) : (s.setKey k b).drawCount = s.drawCount := rfl
@[simp] theorem State.setKey_getV (s : State) (k : RegIdx) (b : Bool) (r : RegIdx) : (s.setKey k b).getV r = s.getV r := rfl

/-! ### ackDisplay -/

@[simp] theorem State.ackDisplay_mem (s : State) : s.ackDisplay.mem = s.mem := rfl
@[simp] theorem State.ackDisplay_V (s : State) : s.ackDisplay.V = s.V := rfl
@[simp] theorem State.ackDisplay_I (s : State) : s.ackDisplay.I = s.I := rfl
@[simp] theorem State.ackDisplay_pc (s : State) : s.ackDisplay.pc = s.pc := rfl
@[simp] theorem State.ackDisplay_stack (s : State) : s.ackDisplay.stack = s.stack := rfl
@[simp] theorem State.ackDisplay_sp (s : State) : s.ackDisplay.sp = s.sp := rfl
@[simp] theorem State.ackDisplay_DT (s : State) : s.ackDisplay.DT = s.DT := rfl
@[simp] theorem State.ackDisplay_ST (s : State) : s.ackDisplay.ST = s.ST := rfl
@[simp] theorem State.ackDisplay_key (s : State) : s.ackDisplay.key = s.key := rfl
@[simp] theorem State.ackDisplay_disp (s : State) : s.ackDisplay.disp = s.disp := rfl
@[simp] theorem State.ackDisplay_dirty (s : State) : s.ackDisplay.dirty = false := rfl
@[simp] theorem State.ackDisplay_halt (s : State) : s.ackDisplay.halt = s.halt := rfl
@[simp] theorem State.ackDisplay_lastCond (s : State) : s.ackDisplay.lastCond = s.lastCond := rfl
@[simp] theorem State.ackDisplay_lastInfo (s : State) : s.ackDisplay.lastInfo = s.lastInfo := rfl
@[simp] theorem State.ackDisplay_seen (s : State) : s.ackDisplay.seen = s.seen := rfl
@[simp] theorem State.ackDisplay_params (s : State) : s.ackDisplay.params = s.params := rfl
@[simp] theorem State.ackDisplay_drawIn (s : State) : s.ackDisplay.drawIn = s.drawIn := rfl
@[simp] theorem State.ackDisplay_drawCount (s : State) : s.ackDisplay.drawCount = s.drawCount := rfl
@[simp] theorem State.ackDisplay_getV (s : State) (r : RegIdx) : s.ackDisplay.getV r = s.getV r := rfl

/-! ### updates with a condition -/

@[simp] theorem State.advanceI_mem (s : State) (n : Nat) : (s.advanceI n).mem = s.mem := by unfold State.advanceI; split <;> rfl
@[simp] theorem State.advanceI_V (s : State) (n : Nat) : (s.advanceI n).V = s.V := by unfold State.advanceI; split <;> rfl
@[simp] theorem State.advanceI_pc (s : State) (n : Nat) : (s.advanceI n).pc = s.pc := by unfold State.advanceI; split <;> rfl
@[simp] theorem State.advanceI_stack (s : State) (n : Nat) : (s.advanceI n).stack = s.stack := by unfold State.advanceI; split <;> rfl
@[simp] theorem State.advanceI_sp (s : State) (n : Nat) : (s.advanceI n).sp = s.sp := by unfold State.advanceI; split <;> rfl
@[simp] theorem State.advanceI_DT (s : State) (n : Nat) : (s.advanceI n).DT = s.DT := by unfold State.advanceI; split <;> rfl
@[simp] theorem State.advanceI_ST (s : State) (n : Nat) : (s.advanceI n).ST = s.ST := by unfold State.advanceI; split <;> rfl
@[simp] theorem State.advanceI_key (s : State) (n : Nat) : (s.advanceI n).key = s.key := by unfold State.advanceI; split <;> rfl
@[simp] theorem State.advanceI_disp (s : State) (n : Nat) : (s.advanceI n).disp = s.disp := by unfold State.advanceI; split <;> rfl
@[simp] theorem State.advanceI_dirty (s : State) (n : Nat) : (s.advanceI n).dirty = s.dirty := by unfold State.advanceI; split <;> rfl
@[simp] theorem State.advanceI_halt (s : State) (n : Nat) : (s.advanceI n).halt = s.halt := by unfold State.advanceI; split <;> rfl
@[simp] theorem State.advanceI_lastCond (s : State) (n : Nat) : (s.advanceI n).lastCond = s.lastCond := by unfold State.advanceI; split <;> rfl
@[simp] theorem State.advanceI_lastInfo (s : State) (n : Nat) : (s.advanceI n).lastInfo = s.lastInfo := by unfold State.advanceI; split <;> rfl
@[simp] theorem State.advanceI_seen (s : State) (n : Nat) : (s.advanceI n).seen = s.seen := by unfold State.advanceI; split <;> rfl
@[simp] theorem State.advanceI_params (s : State) (n : Nat) : (s.advanceI n).params = s.params := by unfold State.advanceI; split <;> rfl
@[simp] theorem State.advanceI_drawIn (s : State) (n : Nat) : (s.advanceI n).drawIn = s.drawIn := by unfold State.advanceI; split <;> rfl
@[simp] theorem State.advanceI_drawCount (s : State) (n : Nat) : (s.advanceI n).drawCount = s.drawCount := by unfold State.advanceI; split <;> rfl
@[simp] theorem State.advanceI_getV (s : State) (n : Nat) (r : RegIdx) : (s.advanceI n).getV r = s.getV r := by unfold State.advanceI; split <;> rfl

@[simp] theorem State.skipIf_mem (s : State) (c : Bool) : (s.skipIf c).mem = s.mem := by unfold State.skipIf; split <;> rfl
@[simp] theorem State.skipIf_V (s : State) (c : Bool) : (s.skipIf c).V = s.V := by unfold State.skipIf; split <;> rfl
@[simp] theorem State.skipIf_I (s : State) (c : Bool) : (s.skipIf c).I = s.I := by unfold State.skipIf; split <;> rfl
@[simp] theorem State.skipIf_stack (s : State) (c : Bool) : (s.skipIf c).stack = s.stack := by unfold State.skipIf; split <;> rfl
@[simp] theorem State.skipIf_sp (s : State) (c : Bool) : (s.skipIf c).sp = s.sp := by unfold State.skipIf; split <;> rfl
@[simp] theorem State.skipIf_DT (s : State) (c : Bool) : (s.skipIf c).DT = s.DT := by unfold State.skipIf; split <;> rfl
@[simp] theorem State.skipIf_ST (s : State) (c : Bool) : (s.skipIf c).ST = s.ST := by unfold State.skipIf; split <;> rfl
@[simp] theorem State.skipIf_key (s : State) (c : Bool) : (s.skipIf c).key = s.key := by unfold State.skipIf; split <;> rfl
@[simp] theorem State.skipIf_disp (s : State) (c : Bool) : (s.skipIf c).disp = s.disp := by unfold State.skipIf; split <;> rfl
@[simp] theorem State.skipIf_dirty (s : State) (c : Bool) : (s.skipIf c).dirty = s.dirty := by unfold State.skipIf; split <;> rfl
@[simp] theorem State.skipIf_halt (s : State) (c : Bool) : (s.skipIf c).halt = s.halt := by unfold State.skipIf; split <;> rfl
@[simp] theorem State.skipIf_lastCond (s : State) (c : Bool) : (s.skipIf c).lastCond = s.lastCond := by unfold State.skipIf; split <;> rfl
@[simp] theorem State.skipIf_lastInfo (s : State) (c : Bool) : (s.skipIf c).lastInfo = s.lastInfo := by unfold State.skipIf; split <;> rfl
@[simp] theorem State.skipIf_seen (s : State) (c : Bool) : (s.skipIf c).seen = s.seen := by unfold State.skipIf; split <;> rfl
@[simp] theorem State.skipIf_params (s : State) (c : Bool) : (s.skipIf c).params = s.params := by unfold State.skipIf; split <;> rfl
@[simp] theorem State.skipIf_drawIn (s : State) (c : Bool) : (s.skipIf c).drawIn = s.drawIn := by unfold State.skipIf; split <;> rfl
@[simp] theorem State.skipIf_drawCount (s : State) (c : Bool) : (s.skipIf c).drawCount = s.drawCount := by unfold State.skipIf; split <;> rfl
@[simp] theorem State.skipIf_getV (s : State) (c : Bool) (r : RegIdx) : (s.skipIf c).getV r = s.getV r := by unfold State.skipIf; split <;> rfl

@[simp] theorem State.raise_mem (s : State) (c : Cond) (i : CondInfo) : (s.raise c i).mem = s.mem := by unfold State.raise; split <;> rfl
@[simp] theorem State.raise_V (s : State) (c : Cond) (i : CondInfo) : (s.raise c i).V = s.V := by unfold State.raise; split <;> rfl
@[simp] theorem State.raise_I (s : State) (c : Cond) (i : CondInfo) : (s.raise c i).I = s.I := by unfold State.raise; split <;> rfl
@[simp] theorem State.raise_stack (s : State) (c : Cond) (i : CondInfo) : (s.raise c i).stack = s.stack := by unfold State.raise; split <;> rfl
@[simp] theorem State.raise_sp (s : State) (c : Cond) (i : CondInfo) : (s.raise c i).sp = s.sp := by unfold State.raise; split <;> rfl
@[simp] theorem State.raise_DT (s : State) (c : Cond) (i : CondInfo) : (s.raise c i).DT = s.DT := by unfold State.raise; split <;> rfl
@[simp] theorem State.raise_ST (s : State) (c : Cond) (i : CondInfo) : (s.raise c i).ST = s.ST := by unfold State.raise; split <;> rfl
@[simp] theorem State.raise_key (s : State) (c : Cond) (i : CondInfo) : (s.raise c i).key = s.key := by unfold State.raise; split <;> rfl
@[simp] theorem State.raise_disp (s : State) (c : Cond) (i : CondInfo) : (s.raise c i).disp = s.disp := by unfold State.raise; split <;> rfl
@[simp] theorem State.raise_dirty (s : State) (c : Cond) (i : CondInfo) : (s.raise c i).dirty = s.dirty := by unfold State.raise; split <;> rfl
@[simp] theorem State.raise_params (s : State) (c : Cond) (i : CondInfo) : (s.raise c i).params = s.params := by unfold State.raise; split <;> rfl
@[simp] theorem State.raise_drawIn (s : State) (c : Cond) (i : CondInfo) : (s.raise c i).drawIn = s.drawIn := by unfold State.raise; split <;> rfl
@[simp] theorem State.raise_drawCount (s : State) (c : Cond) (i : CondInfo) : (s.raise c i).drawCount = s.drawCount := by unfold State.raise; split <;> rfl
@[simp] theorem State.raise_getV (s : State) (c : Cond) (i : CondInfo) (r : RegIdx) : (s.raise c i).getV r = s.getV r := by unfold State.raise; split <;> rfl

@[simp] theorem State.advanceI_I (s : State) (n : Nat) :
    (s.advanceI n).I = if s.params.loadstoreAdvancesI then s.I + BitVec.ofNat 16 n else s.I := by
  unfold State.advanceI; split <;> rfl

theorem State.advanceI_true (s : State) (n : Nat) (h : s.params.loadstoreAdvancesI = true) :
    s.advanceI n = s.setI (s.I + BitVec.ofNat 16 n) := by simp [State.advanceI, h]

theorem State.advanceI_false (s : State) (n : Nat) (h : s.params.loadstoreAdvancesI = false) :
    s.advanceI n = s := by simp [State.advanceI, h]

@[simp] theorem State.skipIf_pc (s : State) (c : Bool) : (s.skipIf c).pc = if c then s.pc + 2 else s.pc := by
  unfold State.skipIf; split <;> rfl

@[simp] theorem State.raise_lastCond (s : State) (c : Cond) (i : CondInfo) : (s.raise c i).lastCond = c := by
  unfold State.raise; split <;> rfl

@[simp] theorem State.raise_lastInfo (s : State) (c : Cond) (i : CondInfo) : (s.raise c i).lastInfo = i := by
  unfold State.raise; split <;> rfl

@[simp] theorem State.raise_seen (s : State) (c : Cond) (i : CondInfo) :
    (s.raise c i).seen = s.seen ||| c.seenBit := by
  unfold State.raise; split <;> rfl

@[simp] theorem State.raise_halt (s : State) (c : Cond) (i : CondInfo) :
    (s.raise c i).halt = if c.fatal i.kind then c else s.halt := by
  unfold State.raise; split <;> rfl

@[simp] theorem State.raise_pc (s : State) (c : Cond) (i : CondInfo) :
    (s.raise c i).pc = if c.fatal i.kind then i.pc else s.pc := by
  unfold State.raise; split <;> rfl

/-! ### Reading a register back -/

@[simp] theorem State.getV_setV (s : State) (x : RegIdx) (b : Byte) (r : RegIdx) :
    (s.setV x b).getV r = if r = x then b else s.getV r := by
  by_cases h : r = x
  · subst h; simp [State.getV, Vector.get_eq_getElem]
  · have h' : x.val ≠ r.val := fun e => h (Fin.ext e.symm)
    simp [State.getV, Vector.get_eq_getElem, h, Vector.getElem_set_ne _ _ h']

/-- R82, R95: VF ends with the flag, whatever the destination. -/
@[simp] theorem State.getV_setFlagged (s : State) (x : RegIdx) (p : Byte × Byte) (r : RegIdx) :
    (s.setFlagged x p).getV r = if r = VF then p.2 else if r = x then p.1 else s.getV r := by
  simp [State.setFlagged]

@[simp] theorem State.getV_loadRegs (s : State) (x r : RegIdx) :
    (s.loadRegs x).getV r = if r ≤ x then s.mem.read (s.dataAddr r.val) else s.getV r := by
  simp [State.loadRegs, State.getV, Vector.get_eq_getElem]

@[simp] theorem State.key_setKey (s : State) (k : RegIdx) (b : Bool) (j : RegIdx) :
    (s.setKey k b).key.get j = if j = k then b else s.key.get j := by
  by_cases h : j = k
  · subst h; simp [Vector.get_eq_getElem]
  · have h' : k.val ≠ j.val := fun e => h (Fin.ext e.symm)
    simp [Vector.get_eq_getElem, h, Vector.getElem_set_ne _ _ h']

/-! ### Display cells -/

@[simp] theorem Display.cell_clear (y : Fin 32) (x : Fin 64) : Display.clear.cell y x = false := by
  simp [Display.cell, Display.clear, Vector.get_eq_getElem]

@[simp] theorem Display.cell_setCell (d : Display) (y : Fin 32) (x : Fin 64) (b : Bool) (y' : Fin 32) (x' : Fin 64) :
    (d.setCell y x b).cell y' x' = if y' = y ∧ x' = x then b else d.cell y' x' := by
  by_cases hy : y' = y
  · subst hy
    by_cases hx : x' = x
    · subst hx; simp [Display.cell, Display.setCell, Vector.get_eq_getElem]
    · have h' : x.val ≠ x'.val := fun e => hx (Fin.ext e.symm)
      simp [Display.cell, Display.setCell, Vector.get_eq_getElem, hx, Vector.getElem_set_ne _ _ h']
  · have h' : y.val ≠ y'.val := fun e => hy (Fin.ext e.symm)
    simp [Display.cell, Display.setCell, Vector.get_eq_getElem, hy, Vector.getElem_set_ne _ _ h']

end Sys2Proof.Machine
end

