-- ==== Sys2Proof/Laws/Memory.lean ====
section
/-! SUPPORT. Memory: what a read gives after a write, and that every operation keeps the canonical form. -/

namespace Sys2Proof.Machine

/-! ### Reading back -/

theorem Memory.read_filter (m : Memory) (a a' : Nat) :
    Memory.read (m.filter (fun c => c.1 != a)) a' = if a' = a then resetByte a else m.read a' := by
  induction m with
  | nil => simp only [List.filter_nil, Memory.read]; split <;> simp_all
  | cons c m ih =>
    obtain ⟨k, v⟩ := c
    by_cases hk : k = a
    · subst hk
      rw [List.filter_cons_of_neg (by simp), ih]
      by_cases ha : a' = k
      · simp [ha]
      · simp [ha, Memory.read, Ne.symm ha]
    · by_cases ha : a' = a
      · subst ha; simp [hk, ih, Memory.read]
      · simp [hk, ih, ha, Memory.read]

theorem Memory.read_insertCell (m : Memory) (a : Nat) (b : Byte) (h : ∀ c ∈ m, c.1 ≠ a) (a' : Nat) :
    Memory.read (Memory.insertCell a b m) a' = if a' = a then b else m.read a' := by
  induction m with
  | nil => simp [Memory.insertCell, Memory.read, eq_comm (a := a)]
  | cons c m ih =>
    obtain ⟨k, v⟩ := c
    have hk : k ≠ a := h (k, v) (by simp)
    have ih' := ih (fun c hc => h c (by simp [hc]))
    by_cases hlt : a < k
    · simp only [Memory.insertCell, hlt, if_true, Memory.read]
      by_cases ha : a' = a
      · simp [ha]
      · simp [ha, Ne.symm ha]
    · simp only [Memory.insertCell, hlt, if_false, Memory.read, ih']
      by_cases ha : a' = a
      · subst ha; simp [hk]
      · simp [ha]

/-- R39: a write changes the addressed byte and nothing else. -/
@[simp] theorem Memory.read_write (m : Memory) (a : Nat) (b : Byte) (a' : Nat) :
    (m.write a b).read a' = if a' = a then b else m.read a' := by
  unfold Memory.write
  split
  · next h => rw [Memory.read_filter, h]
  · rw [Memory.read_insertCell _ _ _ (by simp), Memory.read_filter]
    by_cases ha : a' = a <;> simp [ha]

/-- What `writeBytes` leaves at every address. -/
theorem Memory.read_writeBytes (m : Memory) (a : Nat) (bs : List Byte) (a' : Nat) :
    (m.writeBytes a bs).read a' = if a ≤ a' then bs.getD (a' - a) (m.read a') else m.read a' := by
  induction bs generalizing m a with
  | nil => simp [Memory.writeBytes]
  | cons b bs ih =>
    simp only [Memory.writeBytes, ih, Memory.read_write]
    by_cases h1 : a + 1 ≤ a'
    · have e : a' - a = (a' - (a + 1)) + 1 := by omega
      have hne : a' ≠ a := by omega
      simp [h1, hne, e, show a ≤ a' by omega]
    · by_cases h2 : a' = a
      · subst h2; simp
      · simp [h1, h2, show ¬ a ≤ a' by omega]

theorem Memory.read_writeBytes_outside (m : Memory) (a : Nat) (bs : List Byte) (a' : Nat)
    (h : a' < a ∨ a + bs.length ≤ a') : (m.writeBytes a bs).read a' = m.read a' := by
  rw [Memory.read_writeBytes]
  split
  · rw [List.getD_eq_default]; omega
  · rfl

theorem Memory.read_writeBytes_inside (m : Memory) (a : Nat) (bs : List Byte) (k : Nat) (h : k < bs.length) :
    (m.writeBytes a bs).read (a + k) = bs[k] := by
  rw [Memory.read_writeBytes, if_pos (by omega)]
  simp [h]

@[simp] theorem Memory.length_readBytes (m : Memory) (a n : Nat) : (m.readBytes a n).length = n := by
  induction n generalizing a with
  | zero => rfl
  | succ n ih => simp [Memory.readBytes, ih]

@[simp] theorem Memory.getElem_readBytes (m : Memory) (a n k : Nat) (h : k < (m.readBytes a n).length) :
    (m.readBytes a n)[k] = m.read (a + k) := by
  induction n generalizing a k with
  | zero => simp at h
  | succ n ih =>
    cases k with
    | zero => rfl
    | succ k =>
      have h' : k < n := by simpa using h
      simp only [Memory.readBytes, List.getElem_cons_succ]
      rw [ih (a + 1) k (by simpa using h')]
      congr 1; omega

/-! ### The canonical form -/

/-- The canonical form in terms of the list library. -/
theorem Memory.wf_iff (m : Memory) :
    m.wf = true ↔ m.Pairwise (fun c d => c.1 < d.1) ∧ ∀ c ∈ m, c.1 < 4096 ∧ c.2 ≠ resetByte c.1 := by
  have hs : ∀ m : Memory, m.sorted = true ↔ m.Pairwise (fun c d => c.1 < d.1) := by
    intro m
    induction m with
    | nil => simp [Memory.sorted]
    | cons c m ih =>
      cases m with
      | nil => simp [Memory.sorted]
      | cons d m =>
        obtain ⟨k, v⟩ := c
        obtain ⟨k', v'⟩ := d
        simp only [Memory.sorted, Bool.and_eq_true, decide_eq_true_eq, ih]
        rw [List.pairwise_cons (a := (k, v))]
        constructor
        · rintro ⟨h1, h2⟩
          refine ⟨fun e he => ?_, h2⟩
          rcases List.mem_cons.1 he with rfl | he
          · exact h1
          · exact lt_trans h1 ((List.pairwise_cons.1 h2).1 e he)
        · rintro ⟨h1, h2⟩
          exact ⟨h1 (k', v') (by simp), h2⟩
  simp [Memory.wf, hs]

theorem Memory.mem_insertCell (m : Memory) (a : Nat) (b : Byte) (c : Host.Cell) :
    c ∈ Memory.insertCell a b m ↔ c = (a, b) ∨ c ∈ m := by
  induction m with
  | nil => simp [Memory.insertCell]
  | cons d m ih =>
    obtain ⟨k, v⟩ := d
    by_cases h : a < k
    · simp [Memory.insertCell, h]
    · simp only [Memory.insertCell, h, if_false, List.mem_cons, ih]; tauto

theorem Memory.sorted_insertCell (m : Memory) (a : Nat) (b : Byte) (hs : m.Pairwise (fun c d => c.1 < d.1))
    (hn : ∀ c ∈ m, c.1 ≠ a) : (Memory.insertCell a b m).Pairwise (fun c d => c.1 < d.1) := by
  induction m with
  | nil => simp [Memory.insertCell]
  | cons d m ih =>
    obtain ⟨k, v⟩ := d
    obtain ⟨h1, h2⟩ := List.pairwise_cons.1 hs
    by_cases h : a < k
    · simp only [Memory.insertCell, h, if_true]
      refine List.pairwise_cons.2 ⟨fun e he => ?_, hs⟩
      rcases List.mem_cons.1 he with rfl | he
      · exact h
      · exact lt_trans h (h1 e he)
    · simp only [Memory.insertCell, h, if_false]
      refine List.pairwise_cons.2 ⟨fun e he => ?_, ih h2 (fun c hc => hn c (by simp [hc]))⟩
      rcases (Memory.mem_insertCell m a b e).1 he with rfl | he
      · have := hn (k, v) (by simp)
        show k < a
        simp only at this
        omega
      · exact h1 e he

/-- A write inside the address space keeps the canonical form. -/
theorem Memory.wf_write (m : Memory) (a : Nat) (b : Byte) (h : m.wf = true) (ha : a < 4096) :
    (m.write a b).wf = true := by
  obtain ⟨hs, hc⟩ := (Memory.wf_iff m).1 h
  have hs' : (m.filter (fun c => c.1 != a)).Pairwise (fun c d => c.1 < d.1) := hs.filter _
  have hc' : ∀ c ∈ m.filter (fun c => c.1 != a), c.1 < 4096 ∧ c.2 ≠ resetByte c.1 :=
    fun c hm => hc c (List.mem_filter.1 hm).1
  rw [Memory.wf_iff]
  unfold Memory.write
  split
  · exact ⟨hs', hc'⟩
  · next hb =>
    refine ⟨Memory.sorted_insertCell _ _ _ hs' (fun c hm => by simpa using (List.mem_filter.1 hm).2), ?_⟩
    intro c hm
    rcases (Memory.mem_insertCell _ a b c).1 hm with rfl | hm
    · exact ⟨ha, hb⟩
    · exact hc' c hm

/-- Writing bytes inside the address space keeps the canonical form. -/
theorem Memory.wf_writeBytes (m : Memory) (a : Nat) (bs : List Byte) (h : m.wf = true)
    (ha : a + bs.length ≤ 4096) : (m.writeBytes a bs).wf = true := by
  induction bs generalizing m a with
  | nil => exact h
  | cons b bs ih =>
    simp only [List.length_cons] at ha
    exact ih (m.write a b) (a + 1) (m.wf_write a b h (by omega)) (by omega)

/-- The reset memory has the canonical form. -/
theorem Memory.wf_reset : State.reset.mem.wf = true := rfl

end Sys2Proof.Machine
end

