-- ==== Sys2Proof/Laws/Ops.lean ====
section
/-! SUPPORT. What each shared operation can do, said once. -/

namespace Sys2Proof.Machine

/-! ### Raising a condition (60_exceptions.md R115 to R117) -/

theorem State.raise_fatal (s : State) (c : Cond) (i : CondInfo) (h : c.fatal i.kind = true) :
    s.raise c i =
      { s with lastCond := c, lastInfo := i, seen := s.seen ||| c.seenBit, halt := c, pc := i.pc } := by
  simp [State.raise, h]

theorem State.raise_nonfatal (s : State) (c : Cond) (i : CondInfo) (h : c.fatal i.kind = false) :
    s.raise c i = { s with lastCond := c, lastInfo := i, seen := s.seen ||| c.seenBit } := by
  simp [State.raise, h]

theorem done_next (s t : State) : done s = .next t ↔ t = s.quiet := by
  simp [done, eq_comm]

/-! ### The range check (20_memory.md R34) -/

theorem State.rangeFault_none (s : State) (len : Nat) :
    s.rangeFault len = none ↔ len = 0 ∨ s.I.toNat + len ≤ 0x1000 := by
  unfold State.rangeFault State.dataAddr
  split <;> simp <;> omega

theorem State.rangeFault_some (s : State) (len a : Nat) :
    s.rangeFault len = some a ↔ 0 < len ∧ 0x1000 < s.I.toNat + len ∧ a = max s.I.toNat 0x1000 := by
  unfold State.rangeFault State.dataAddr
  split <;> simp <;> omega

theorem State.accessing_inRange (s : State) (len : Nat) (w : Word) (e : State)
    (h : len = 0 ∨ s.I.toNat + len ≤ 0x1000) : s.accessing len w e = .next e.quiet := by
  simp [State.accessing, (s.rangeFault_none len).2 h, done]

theorem State.accessing_outOfRange (s : State) (len : Nat) (w : Word) (e : State)
    (h0 : 0 < len) (h : 0x1000 < s.I.toNat + len) :
    s.accessing len w e = .next (s.raise .memoryOutOfBounds
      { pc := s.instrAddr, word := w, kind := .data, addr := max s.I.toNat 0x1000 }) := by
  simp [State.accessing, (s.rangeFault_some len _).2 ⟨h0, h, rfl⟩]

/-- The two ends of a transfer. -/
theorem State.accessing_cases (s : State) (len : Nat) (w : Word) (e t : State)
    (h : s.accessing len w e = .next t) :
    ((len = 0 ∨ s.I.toNat + len ≤ 0x1000) ∧ t = e.quiet) ∨
    (0 < len ∧ 0x1000 < s.I.toNat + len ∧ t = s.raise .memoryOutOfBounds
      { pc := s.instrAddr, word := w, kind := .data, addr := max s.I.toNat 0x1000 }) := by
  by_cases hr : len = 0 ∨ s.I.toNat + len ≤ 0x1000
  · rw [s.accessing_inRange len w e hr] at h
    exact .inl ⟨hr, by simpa [eq_comm] using h⟩
  · rw [s.accessing_outOfRange len w e (by omega) (by omega)] at h
    exact .inr ⟨by omega, by omega, by simpa [eq_comm] using h⟩

/-! ### The stack (10_state.md R21) -/

theorem State.push_some (s : State) (a : Word) (h : s.sp.val < 16) :
    s.push a = some { s with stack := s.stack.set s.sp.val a h, sp := ⟨s.sp.val + 1, by omega⟩ } := by
  simp [State.push, h]

theorem State.push_none (s : State) (a : Word) (h : s.sp.val = 16) : s.push a = none := by
  simp [State.push, h]

theorem State.pop_some (s : State) (k : Fin 16) (h : s.sp.val = k.val + 1) :
    s.pop = some (s.stack.get k, { s with sp := k.castSucc }) := by
  have h0 : s.sp.val ≠ 0 := by omega
  have hk : (⟨s.sp.val - 1, by omega⟩ : Fin 16) = k := Fin.ext (show s.sp.val - 1 = k.val by omega)
  have hk' : (⟨s.sp.val - 1, by omega⟩ : Fin 17) = k.castSucc := Fin.ext (show s.sp.val - 1 = k.val by omega)
  simp only [State.pop, dif_neg h0, hk, hk']

theorem State.pop_none (s : State) (h : s.sp.val = 0) : s.pop = none := by
  simp [State.pop, h]

/-! ### Keys (45_keypad_timers.md R111) -/

theorem State.firstKey_none (s : State) : s.firstKey = none ↔ ∀ k, s.key.get k = false := by
  simp [State.firstKey]

theorem State.firstKey_some (s : State) (k : RegIdx) (h : s.key.get k = true)
    (hl : ∀ j, j < k → s.key.get j = false) : s.firstKey = some k := by
  cases hf : s.firstKey with
  | none => rw [State.firstKey_none] at hf; simp [hf k] at h
  | some k' =>
    unfold State.firstKey at hf
    obtain ⟨hk', as, bs, hab, has⟩ := List.find?_eq_some_iff_append.1 hf
    have hmem : k ∈ List.finRange 16 := List.mem_finRange k
    rw [hab] at hmem
    rcases List.mem_append.1 hmem with hm | hm
    · have := has k hm; simp [h] at this
    · rcases List.mem_cons.1 hm with rfl | hm
      · rfl
      · have hp : (List.finRange 16).Pairwise (· < ·) := List.pairwise_lt_finRange 16
        rw [hab] at hp
        have hlt : k' < k := (List.pairwise_cons.1 (List.pairwise_append.1 hp).2.1).1 k hm
        have := hl k' hlt; simp [this] at hk'

/-! ### Operand lists -/

@[simp] theorem State.length_regsUpTo (s : State) (x : RegIdx) : (s.regsUpTo x).length = x.val + 1 := by
  simp [State.regsUpTo]

@[simp] theorem State.getElem_regsUpTo (s : State) (x : RegIdx) (k : Nat) (h : k < (s.regsUpTo x).length) :
    (s.regsUpTo x)[k] = s.getV ⟨k, by simp at h; omega⟩ := by
  simp [State.regsUpTo, State.getV, Vector.get_eq_getElem]

@[simp] theorem State.length_spriteBytes (s : State) (n : Fin 16) : (s.spriteBytes n).length = n.val := by
  simp [State.spriteBytes]

@[simp] theorem length_bcdDigits (b : Byte) : (bcdDigits b).length = 3 := rfl

theorem flagByte_eq_one (b : Bool) : flagByte b = 1 ↔ b = true := by cases b <;> decide

theorem flagByte_eq_zero (b : Bool) : flagByte b = 0 ↔ b = false := by cases b <;> decide

end Sys2Proof.Machine
end

