-- ==== Sys2Proof/Laws/Exec.lean ====
section
/-! SUPPORT. What an instruction can do, said once: it ends quietly and has changed nothing but what its row of
`touched` names, or it has raised one condition and done nothing else. -/

namespace Sys2Proof.Machine

/-- The frame of each instruction: what it may change besides pc and `last_cond` (10_state.md R15 to R26). -/
def touched (s : State) : Instr → Touched
  | .sys _ | .jp _ | .jpV0 _ | .seXNN _ _ | .sneXNN _ _ | .seXY _ _ _ | .sneXY _ _ _ | .skp _ | .sknp _ => {}
  | .ret _ | .call _ => { stack := true }
  | .cls _ => { disp := true, dirty := true }
  | .ldXNN x _ | .addXNN x _ | .ldXY x _ | .ldXDT x | .ldXK x => { regs := [x] }
  | .orXY x _ | .andXY x _ | .xorXY x _ | .addXY x _ | .sub x _ | .subn x _ | .shr x _ | .shl x _ =>
    { regs := [x, VF] }
  | .rnd x _ => { regs := [x], draws := true }
  | .ldI _ | .addIX _ | .ldFX _ => { I := true }
  | .drw _ _ _ => { regs := [VF], disp := true, dirty := true }
  | .ldDTX _ | .ldSTX _ => { timers := true }
  | .ldBX _ => { bytes := [s.I.toNat, s.I.toNat + 1, s.I.toNat + 2] }
  | .ldMemX x => { I := true, bytes := (List.range (x.val + 1)).map (s.I.toNat + ·) }
  | .ldXMem x => { I := true, regs := (List.finRange 16).filter (· ≤ x) }

/-- How many bytes from I an instruction accesses (20_memory.md R32). -/
def transferLen : Instr → Nat
  | .drw _ _ n => n.val
  | .ldBX _ => 3
  | .ldMemX x => x.val + 1
  | .ldXMem x => x.val + 1
  | _ => 0

/-- The condition an instruction raises, with what it records (60_exceptions.md R114). -/
inductive Raises (s : State) : Instr → Cond → CondInfo → Prop where
  | sys (nnn : Addr) (h : s.params.sysReportsUnknown = true) :
    Raises s (.sys nnn) .unknownOpcode (s.plainInfo (encode (.sys nnn)))
  | call (nnn : Addr) (h : s.sp.val = 16) : Raises s (.call nnn) .stackOverflow (s.plainInfo (encode (.call nnn)))
  | ret (u : Nibble) (h : s.sp.val = 0) : Raises s (.ret u) .stackUnderflow (s.plainInfo (encode (.ret u)))
  | data (i : Instr) (h0 : 0 < transferLen i) (h : 0x1000 < s.I.toNat + transferLen i) :
    Raises s i .memoryOutOfBounds
      { pc := s.instrAddr, word := encode i, kind := .data, addr := max s.I.toNat 0x1000 }

theorem EndsAt.of_done (T : Touched) (s e : State) (h : ChangesOnly T s e) : EndsAt e.pc T s e.quiet :=
  ⟨rfl, rfl, ⟨h.regs, h.mem, h.I, h.stack, h.timers, h.key, h.disp, h.dirty, h.status, h.params, h.draws⟩⟩

/-- An instruction that ends in `done e` ends quietly when `e` differs from `s` only in what the frame names. -/
theorem exec_quiet (i : Instr) (s e : State) (he : exec i s = done e) (h : ChangesOnly (touched s i) s e) :
    ∃ t, exec i s = .next t ∧ ((∃ a, EndsAt a (touched s i) s t) ∨
      ∃ c info, Raises s i c info ∧ t = s.raise c info) :=
  ⟨_, he, .inl ⟨_, EndsAt.of_done _ s e h⟩⟩

/-- The same for a memory transfer, which may be out of range instead (20_memory.md R34). -/
theorem exec_transfer (i : Instr) (s e : State) (he : exec i s = s.accessing (transferLen i) (encode i) e)
    (h : transferLen i = 0 ∨ s.I.toNat + transferLen i ≤ 0x1000 → ChangesOnly (touched s i) s e) :
    ∃ t, exec i s = .next t ∧ ((∃ a, EndsAt a (touched s i) s t) ∨
      ∃ c info, Raises s i c info ∧ t = s.raise c info) := by
  by_cases hr : transferLen i = 0 ∨ s.I.toNat + transferLen i ≤ 0x1000
  · exact ⟨_, by rw [he, s.accessing_inRange _ _ _ hr], .inl ⟨_, EndsAt.of_done _ s e (h hr)⟩⟩
  · exact ⟨_, by rw [he, s.accessing_outOfRange _ _ _ (by omega) (by omega)],
      .inr ⟨_, _, .data i (by omega) (by omega), rfl⟩⟩

theorem ChangesOnly.setV (T : Touched) (s : State) (x : RegIdx) (b : Byte) (h : x ∈ T.regs) :
    ChangesOnly T s (s.setV x b) := by
  constructor <;> simp
  intro r hr e; subst e; exact absurd h hr

theorem ChangesOnly.setFlagged (T : Touched) (s : State) (x : RegIdx) (p : Byte × Byte) (h : x ∈ T.regs)
    (hf : VF ∈ T.regs) : ChangesOnly T s (s.setFlagged x p) := by
  constructor <;> simp
  intro r hr
  have h1 : r ≠ VF := fun e => hr (e ▸ hf)
  have h2 : r ≠ x := fun e => hr (e ▸ h)
  simp [h1, h2]

theorem ChangesOnly.skipIf (T : Touched) (s : State) (c : Bool) : ChangesOnly T s (s.skipIf c) := by
  constructor <;> simp

theorem ChangesOnly.jumpTo (T : Touched) (s : State) (a : Word) : ChangesOnly T s (s.jumpTo a) := by
  constructor <;> simp

theorem ChangesOnly.setI (T : Touched) (s : State) (v : Word) (h : T.I = true) : ChangesOnly T s (s.setI v) := by
  constructor <;> simp [h]

/-- Storing bytes at `a`, `a + 1`, … changes no other byte. -/
theorem ChangesOnly.store (T : Touched) (s : State) (a : Nat) (bs : List Byte)
    (h : ∀ k < bs.length, a + k ∈ T.bytes) : ChangesOnly T s (s.store a bs) := by
  constructor <;> simp
  intro a' ha'
  apply Memory.read_writeBytes_outside
  by_contra hc
  exact ha' (by have := h (a' - a) (by omega); rwa [show a + (a' - a) = a' by omega] at this)

/-- `advanceI` after a transfer touches I and nothing more. -/
theorem ChangesOnly.advanceI (T : Touched) (s e : State) (n : Nat) (hI : T.I = true) (h : ChangesOnly T s e) :
    ChangesOnly T s (e.advanceI n) := by
  constructor <;> simp [hI]
  · exact h.regs
  · exact h.mem
  · exact h.stack
  · exact h.timers
  · exact h.key
  · exact h.disp
  · exact h.dirty
  · exact h.status
  · exact h.params
  · exact h.draws

/-- Every instruction, in every state: it ends quietly inside its frame, or it raises one condition and does nothing
else. -/
theorem exec_cases (i : Instr) (s : State) :
    ∃ t, exec i s = .next t ∧ ((∃ a, EndsAt a (touched s i) s t) ∨
      ∃ c info, Raises s i c info ∧ t = s.raise c info) := by
  have same : ∀ T, ChangesOnly T s s := fun T => by constructor <;> simp
  cases i with
  | sys nnn =>
    cases h : s.params.sysReportsUnknown with
    | false => exact exec_quiet _ s s (by simp [exec, execSys, h]) (same _)
    | true => exact ⟨_, by simp [exec, execSys, h]; rfl, .inr ⟨_, _, .sys nnn h, rfl⟩⟩
  | cls u => exact exec_quiet _ s _ rfl (by constructor <;> simp [touched])
  | ret u =>
    by_cases h : s.sp.val = 0
    · exact ⟨_, by simp [exec, execRet, s.pop_none h], .inr ⟨_, _, .ret u h, rfl⟩⟩
    · refine exec_quiet _ s _ (by simp only [exec, execRet, s.pop_some ⟨s.sp.val - 1, by omega⟩ (by simp; omega)]; rfl) ?_
      constructor <;> simp [touched]
      all_goals (intros; rfl)
  | jp nnn => exact exec_quiet _ s _ rfl (.jumpTo _ _ _)
  | call nnn =>
    by_cases h : s.sp.val < 16
    · refine exec_quiet _ s _ (by simp only [exec, execCall, s.push_some s.pc h]; rfl) ?_
      constructor <;> simp [touched]
      all_goals (intros; rfl)
    · have h' : s.sp.val = 16 := by omega
      exact ⟨_, by simp [exec, execCall, s.push_none s.pc h'], .inr ⟨_, _, .call nnn h', rfl⟩⟩
  | seXNN x nn => exact exec_quiet _ s _ rfl (.skipIf _ _ _)
  | sneXNN x nn => exact exec_quiet _ s _ rfl (.skipIf _ _ _)
  | seXY x y u => exact exec_quiet _ s _ rfl (.skipIf _ _ _)
  | sneXY x y u => exact exec_quiet _ s _ rfl (.skipIf _ _ _)
  | ldXNN x nn => exact exec_quiet _ s _ rfl (.setV _ _ _ _ (by simp [touched]))
  | addXNN x nn => exact exec_quiet _ s _ rfl (.setV _ _ _ _ (by simp [touched]))
  | ldXY x y => exact exec_quiet _ s _ rfl (.setV _ _ _ _ (by simp [touched]))
  | orXY x y => exact exec_quiet _ s _ rfl (.setFlagged _ _ _ _ (by simp [touched]) (by simp [touched]))
  | andXY x y => exact exec_quiet _ s _ rfl (.setFlagged _ _ _ _ (by simp [touched]) (by simp [touched]))
  | xorXY x y => exact exec_quiet _ s _ rfl (.setFlagged _ _ _ _ (by simp [touched]) (by simp [touched]))
  | addXY x y => exact exec_quiet _ s _ rfl (.setFlagged _ _ _ _ (by simp [touched]) (by simp [touched]))
  | sub x y => exact exec_quiet _ s _ rfl (.setFlagged _ _ _ _ (by simp [touched]) (by simp [touched]))
  | shr x y => exact exec_quiet _ s _ rfl (.setFlagged _ _ _ _ (by simp [touched]) (by simp [touched]))
  | subn x y => exact exec_quiet _ s _ rfl (.setFlagged _ _ _ _ (by simp [touched]) (by simp [touched]))
  | shl x y => exact exec_quiet _ s _ rfl (.setFlagged _ _ _ _ (by simp [touched]) (by simp [touched]))
  | ldI nnn => exact exec_quiet _ s _ rfl (.setI _ _ _ rfl)
  | jpV0 nnn => exact exec_quiet _ s _ rfl (.jumpTo _ _ _)
  | rnd x nn =>
    have h := ChangesOnly.setV (touched s (.rnd x nn)) s x (s.entropyDraw &&& nn) (by simp [touched])
    exact exec_quiet _ s _ rfl
      ⟨h.regs, h.mem, h.I, h.stack, h.timers, h.key, h.disp, h.dirty, h.status, h.params, rfl, by simp [touched]⟩
  | drw x y n =>
    refine exec_transfer _ s _ rfl (fun _ => ?_)
    have h := ChangesOnly.setV (touched s (.drw x y n)) s VF (flagByte (s.drawn x y n).2) (by simp [touched])
    exact ⟨h.regs, h.mem, h.I, h.stack, h.timers, h.key, by simp [touched], by simp [touched], h.status, h.params,
      h.draws⟩
  | skp x => exact exec_quiet _ s _ rfl (.skipIf _ _ _)
  | sknp x => exact exec_quiet _ s _ rfl (.skipIf _ _ _)
  | ldXDT x => exact exec_quiet _ s _ rfl (.setV _ _ _ _ (by simp [touched]))
  | ldXK x =>
    cases h : s.firstKey with
    | none => exact exec_quiet _ s _ (by simp only [exec, execLdXK, h]; rfl) (.jumpTo _ _ _)
    | some k =>
      exact exec_quiet _ s _ (by simp only [exec, execLdXK, h]; rfl) (.setV _ _ _ _ (by simp [touched]))
  | ldDTX x => exact exec_quiet _ s _ rfl (by constructor <;> simp [touched])
  | ldSTX x => exact exec_quiet _ s _ rfl (by constructor <;> simp [touched])
  | addIX x => exact exec_quiet _ s _ rfl (.setI _ _ _ rfl)
  | ldFX x => exact exec_quiet _ s _ rfl (.setI _ _ _ rfl)
  | ldBX x =>
    refine exec_transfer _ s _ rfl (fun _ => .store _ _ _ _ ?_)
    intro k hk
    have : k < 3 := hk
    simp [touched, State.dataAddr]; omega
  | ldMemX x =>
    refine exec_transfer _ s _ rfl (fun _ => .advanceI _ _ _ _ rfl (.store _ _ _ _ ?_))
    intro k hk
    have : k < x.val + 1 := by simpa using hk
    simp [touched, State.dataAddr]; omega
  | ldXMem x =>
    refine exec_transfer _ s _ rfl (fun _ => .advanceI _ _ _ _ rfl ?_)
    constructor <;> simp [touched]
    intro r h1 h2; exact absurd h2 (not_le.2 h1)

end Sys2Proof.Machine
end

