-- ==== Sys2Proof/Laws/PerInstr.lean ====
section
/-! SUPPORT. The per-instruction family of LAWS.json: the word of every instruction matches the row of
spec/opcode_table.json it stands for (30_encoding.md R59). -/

namespace Sys2Proof.Laws.TableMatch

/-- `w AND mask = match` for the encoded word and the instruction's own row. -/
def Statement (i : Instr) : Prop := (tableRow i).hits (encode i) = true

theorem sys (nnn : Addr) : Statement (.sys nnn) := by
  simp [Statement, TableRow.hits, tableRow, encode, mask_F000_wordN]; rfl
theorem cls (u : Nibble) : Statement (.cls u) := by
  simp [Statement, TableRow.hits, tableRow, encode, wordZ_eq, mask_F0FF_wordXNN]; rfl
theorem ret (u : Nibble) : Statement (.ret u) := by
  simp [Statement, TableRow.hits, tableRow, encode, wordZ_eq, mask_F0FF_wordXNN]; rfl
theorem jp (nnn : Addr) : Statement (.jp nnn) := by
  simp [Statement, TableRow.hits, tableRow, encode, mask_F000_wordN]; rfl
theorem call (nnn : Addr) : Statement (.call nnn) := by
  simp [Statement, TableRow.hits, tableRow, encode, mask_F000_wordN]; rfl
theorem ldI (nnn : Addr) : Statement (.ldI nnn) := by
  simp [Statement, TableRow.hits, tableRow, encode, mask_F000_wordN]; rfl
theorem jpV0 (nnn : Addr) : Statement (.jpV0 nnn) := by
  simp [Statement, TableRow.hits, tableRow, encode, mask_F000_wordN]; rfl
theorem seXNN (x : RegIdx) (nn : Byte) : Statement (.seXNN x nn) := by
  simp [Statement, TableRow.hits, tableRow, encode, mask_F000_wordXNN]; rfl
theorem sneXNN (x : RegIdx) (nn : Byte) : Statement (.sneXNN x nn) := by
  simp [Statement, TableRow.hits, tableRow, encode, mask_F000_wordXNN]; rfl
theorem ldXNN (x : RegIdx) (nn : Byte) : Statement (.ldXNN x nn) := by
  simp [Statement, TableRow.hits, tableRow, encode, mask_F000_wordXNN]; rfl
theorem addXNN (x : RegIdx) (nn : Byte) : Statement (.addXNN x nn) := by
  simp [Statement, TableRow.hits, tableRow, encode, mask_F000_wordXNN]; rfl
theorem rnd (x : RegIdx) (nn : Byte) : Statement (.rnd x nn) := by
  simp [Statement, TableRow.hits, tableRow, encode, mask_F000_wordXNN]; rfl
theorem seXY (x y : RegIdx) (u : Nibble) : Statement (.seXY x y u) := by
  simp [Statement, TableRow.hits, tableRow, encode, wordXYN_eq, mask_F000_wordXNN]; rfl
theorem sneXY (x y : RegIdx) (u : Nibble) : Statement (.sneXY x y u) := by
  simp [Statement, TableRow.hits, tableRow, encode, wordXYN_eq, mask_F000_wordXNN]; rfl
theorem ldXY (x y : RegIdx) : Statement (.ldXY x y) := by
  simp [Statement, TableRow.hits, tableRow, encode, mask_F00F_wordXYN]; rfl
theorem orXY (x y : RegIdx) : Statement (.orXY x y) := by
  simp [Statement, TableRow.hits, tableRow, encode, mask_F00F_wordXYN]; rfl
theorem andXY (x y : RegIdx) : Statement (.andXY x y) := by
  simp [Statement, TableRow.hits, tableRow, encode, mask_F00F_wordXYN]; rfl
theorem xorXY (x y : RegIdx) : Statement (.xorXY x y) := by
  simp [Statement, TableRow.hits, tableRow, encode, mask_F00F_wordXYN]; rfl
theorem addXY (x y : RegIdx) : Statement (.addXY x y) := by
  simp [Statement, TableRow.hits, tableRow, encode, mask_F00F_wordXYN]; rfl
theorem sub (x y : RegIdx) : Statement (.sub x y) := by
  simp [Statement, TableRow.hits, tableRow, encode, mask_F00F_wordXYN]; rfl
theorem shr (x y : RegIdx) : Statement (.shr x y) := by
  simp [Statement, TableRow.hits, tableRow, encode, mask_F00F_wordXYN]; rfl
theorem subn (x y : RegIdx) : Statement (.subn x y) := by
  simp [Statement, TableRow.hits, tableRow, encode, mask_F00F_wordXYN]; rfl
theorem shl (x y : RegIdx) : Statement (.shl x y) := by
  simp [Statement, TableRow.hits, tableRow, encode, mask_F00F_wordXYN]; rfl
theorem drw (x y : RegIdx) (n : Fin 16) : Statement (.drw x y n) := by
  simp [Statement, TableRow.hits, tableRow, encode, wordXYN_eq, mask_F000_wordXNN]; rfl
theorem skp (x : RegIdx) : Statement (.skp x) := by
  simp [Statement, TableRow.hits, tableRow, encode, mask_F0FF_wordXNN]; rfl
theorem sknp (x : RegIdx) : Statement (.sknp x) := by
  simp [Statement, TableRow.hits, tableRow, encode, mask_F0FF_wordXNN]; rfl
theorem ldXDT (x : RegIdx) : Statement (.ldXDT x) := by
  simp [Statement, TableRow.hits, tableRow, encode, mask_F0FF_wordXNN]; rfl
theorem ldXK (x : RegIdx) : Statement (.ldXK x) := by
  simp [Statement, TableRow.hits, tableRow, encode, mask_F0FF_wordXNN]; rfl
theorem ldDTX (x : RegIdx) : Statement (.ldDTX x) := by
  simp [Statement, TableRow.hits, tableRow, encode, mask_F0FF_wordXNN]; rfl
theorem ldSTX (x : RegIdx) : Statement (.ldSTX x) := by
  simp [Statement, TableRow.hits, tableRow, encode, mask_F0FF_wordXNN]; rfl
theorem addIX (x : RegIdx) : Statement (.addIX x) := by
  simp [Statement, TableRow.hits, tableRow, encode, mask_F0FF_wordXNN]; rfl
theorem ldFX (x : RegIdx) : Statement (.ldFX x) := by
  simp [Statement, TableRow.hits, tableRow, encode, mask_F0FF_wordXNN]; rfl
theorem ldBX (x : RegIdx) : Statement (.ldBX x) := by
  simp [Statement, TableRow.hits, tableRow, encode, mask_F0FF_wordXNN]; rfl
theorem ldMemX (x : RegIdx) : Statement (.ldMemX x) := by
  simp [Statement, TableRow.hits, tableRow, encode, mask_F0FF_wordXNN]; rfl
theorem ldXMem (x : RegIdx) : Statement (.ldXMem x) := by
  simp [Statement, TableRow.hits, tableRow, encode, mask_F0FF_wordXNN]; rfl

end Sys2Proof.Laws.TableMatch
end

