-- ==== Sys2Proof/Laws/Screen.lean ====
section
/-! SUPPORT. What drawing a sprite row and a sprite leaves in each cell and in the collision flag: no two pixels of
one draw meet, so the order of the pixels does not matter (44_display.md R105). -/

namespace Sys2Proof.Machine

/-! ### One pixel -/

theorem cell_xorPixel (y : Fin 32) (x : Fin 64) (c : Display × Bool) (y' : Fin 32) (x' : Fin 64) :
    (xorPixel y x c).1.cell y' x' = (c.1.cell y' x' != decide (y' = y ∧ x' = x)) := by
  by_cases h : y' = y ∧ x' = x
  · obtain ⟨rfl, rfl⟩ := h
    simp [xorPixel]
  · simp [xorPixel, h]

/-! ### One row of a sprite -/

/-- Bit 7 - k of the row is 1 for the column `x'` of the display, k below `m` (R102). -/
def rowCovers (b : Byte) (x0 m : Nat) (x' : Fin 64) : Prop :=
  ∃ k < m, b.getLsbD (7 - k) = true ∧ x'.val = (x0 + k) % 64

theorem rowCovers_succ (b : Byte) (x0 m : Nat) (x' : Fin 64) :
    rowCovers b x0 (m + 1) x' ↔
      rowCovers b x0 m x' ∨ (b.getLsbD (7 - m) = true ∧ x'.val = (x0 + m) % 64) := by
  constructor
  · rintro ⟨k, hk, h⟩
    rcases Nat.lt_succ_iff_lt_or_eq.1 hk with hk | rfl
    · exact .inl ⟨k, hk, h⟩
    · exact .inr h
  · rintro (⟨k, hk, h⟩ | h)
    · exact ⟨k, by omega, h⟩
    · exact ⟨m, by omega, h⟩

/-- The first `m` pixels of a row: the covered cells of row `y` are inverted, and the flag collects the lit ones. -/
theorem drawByte_prefix (b : Byte) (x0 : Nat) (y : Fin 32) (c : Display × Bool) (m : Nat) (hm : m ≤ 8) :
    let r := (List.range m).foldl
      (fun c k => if b.getLsbD (7 - k) then xorPixel y (Fin.ofNat 64 (x0 + k)) c else c) c
    (∀ y' x', r.1.cell y' x' = true ↔ ¬ (c.1.cell y' x' = true ↔ (y' = y ∧ rowCovers b x0 m x'))) ∧
    (r.2 = true ↔ c.2 = true ∨ ∃ x', c.1.cell y x' = true ∧ rowCovers b x0 m x') := by
  induction m with
  | zero => simp [rowCovers]
  | succ m ih =>
    obtain ⟨ih1, ih2⟩ := ih (by omega)
    simp only [List.range_succ, List.foldl_append, List.foldl_cons, List.foldl_nil]
    generalize (List.range m).foldl
      (fun c k => if b.getLsbD (7 - k) then xorPixel y (Fin.ofNat 64 (x0 + k)) c else c) c = r at ih1 ih2
    have hnew : ¬ rowCovers b x0 m (Fin.ofNat 64 (x0 + m)) := by
      rintro ⟨k, hk, -, h⟩
      simp only [Fin.ofNat] at h
      omega
    have hx : ∀ x' : Fin 64, x'.val = (x0 + m) % 64 ↔ x' = Fin.ofNat 64 (x0 + m) :=
      fun x' => ⟨fun h => Fin.ext h, fun h => h ▸ rfl⟩
    by_cases hb : b.getLsbD (7 - m) = true
    · simp only [hb, if_true, cell_xorPixel, rowCovers_succ, true_and, hx]
      constructor
      · intro y' x'
        by_cases hc : y' = y ∧ x' = Fin.ofNat 64 (x0 + m)
        · obtain ⟨rfl, rfl⟩ := hc
          have h1 := ih1 y' (Fin.ofNat 64 (x0 + m))
          generalize Fin.ofNat 64 (x0 + m) = X at *
          cases hr : r.1.cell y' X <;> cases hc : c.1.cell y' X <;> simp_all
        · have := ih1 y' x'
          by_cases hy : y' = y
          · have hx' : x' ≠ Fin.ofNat 64 (x0 + m) := fun e => hc ⟨hy, e⟩
            simp_all
          · simp_all
      · have h1 := ih1 y (Fin.ofNat 64 (x0 + m))
        simp only [hnew] at h1
        simp only [xorPixel, Bool.or_eq_true, ih2]
        constructor
        · rintro ((h | ⟨x', h, h'⟩) | h)
          · exact .inl h
          · exact .inr ⟨x', h, .inl h'⟩
          · exact .inr ⟨_, by simpa using h1.1 h, .inr rfl⟩
        · rintro (h | ⟨x', h, h' | rfl⟩)
          · exact .inl (.inl h)
          · exact .inl (.inr ⟨x', h, h'⟩)
          · exact .inr (h1.2 (by simpa using h))
    · simp only [hb, Bool.false_eq_true, if_false, rowCovers_succ, false_and, or_false]
      exact ⟨ih1, ih2⟩

theorem drawByte_cells (b : Byte) (x0 : Nat) (y : Fin 32) (c : Display × Bool) (y' : Fin 32) (x' : Fin 64) :
    (drawByte b x0 y c).1.cell y' x' = true ↔
      ¬ (c.1.cell y' x' = true ↔ (y' = y ∧ rowCovers b x0 8 x')) :=
  (drawByte_prefix b x0 y c 8 (by omega)).1 y' x'

theorem drawByte_collide (b : Byte) (x0 : Nat) (y : Fin 32) (c : Display × Bool) :
    (drawByte b x0 y c).2 = true ↔ c.2 = true ∨ ∃ x', c.1.cell y x' = true ∧ rowCovers b x0 8 x' :=
  (drawByte_prefix b x0 y c 8 (by omega)).2

/-! ### A sprite -/

/-- Row r of the sprite covers the cell in row `y'` and column `x'` (R102, R105). -/
def spriteRowsCover (bs : List Byte) (x0 y0 : Nat) (y' : Fin 32) (x' : Fin 64) : Prop :=
  ∃ (r : Nat) (h : r < bs.length), y'.val = (y0 + r) % 32 ∧ rowCovers bs[r] x0 8 x'

theorem spriteRowsCover_cons (b : Byte) (bs : List Byte) (x0 y0 : Nat) (y' : Fin 32) (x' : Fin 64) :
    spriteRowsCover (b :: bs) x0 y0 y' x' ↔
      (y' = Fin.ofNat 32 y0 ∧ rowCovers b x0 8 x') ∨ spriteRowsCover bs x0 (y0 + 1) y' x' := by
  constructor
  · rintro ⟨r, h, hy, hc⟩
    cases r with
    | zero => exact .inl ⟨Fin.ext (by simpa [Fin.ofNat] using hy), hc⟩
    | succ r => exact .inr ⟨r, by simpa using h, by rw [hy]; congr 1; omega, by simpa using hc⟩
  · rintro (⟨rfl, hc⟩ | ⟨r, h, hy, hc⟩)
    · exact ⟨0, by simp, by simp [Fin.ofNat], by simpa using hc⟩
    · exact ⟨r + 1, by simpa using h, by rw [hy]; congr 1; omega, by simpa using hc⟩

/-- A sprite of at most 32 rows: the display becomes its exclusive or with the covered cells, and the flag says
whether one of them was lit. -/
theorem drawSprite_spec (bs : List Byte) (x0 y0 : Nat) (c : Display × Bool) (hl : bs.length ≤ 32) :
    (∀ y' x', (drawSprite bs x0 y0 c).1.cell y' x' = true ↔
      ¬ (c.1.cell y' x' = true ↔ spriteRowsCover bs x0 y0 y' x')) ∧
    ((drawSprite bs x0 y0 c).2 = true ↔
      c.2 = true ∨ ∃ y' x', c.1.cell y' x' = true ∧ spriteRowsCover bs x0 y0 y' x') := by
  induction bs generalizing y0 c with
  | nil => simp [drawSprite, spriteRowsCover]
  | cons b bs ih =>
    have hl' : bs.length + 1 ≤ 32 := hl
    obtain ⟨ih1, ih2⟩ := ih (y0 + 1) (drawByte b x0 (Fin.ofNat 32 y0) c) (by omega)
    have apart : ∀ x', ¬ spriteRowsCover bs x0 (y0 + 1) (Fin.ofNat 32 y0) x' := by
      rintro x' ⟨r, h, hy, -⟩
      simp only [Fin.ofNat] at hy
      omega
    simp only [drawSprite, spriteRowsCover_cons]
    generalize Fin.ofNat 32 y0 = y at *
    constructor
    · intro y' x'
      rw [ih1, drawByte_cells]
      by_cases hy : y' = y
      · subst hy; simp [apart]
      · simp [hy]
    · rw [ih2, drawByte_collide]
      constructor
      · rintro ((h | ⟨x', h, h'⟩) | ⟨y', x', h, h'⟩)
        · exact .inl h
        · exact .inr ⟨_, x', h, .inl ⟨rfl, h'⟩⟩
        · have hy : y' ≠ y := fun e => apart x' (e ▸ h')
          rw [drawByte_cells] at h
          exact .inr ⟨y', x', by simpa [hy] using h, .inr h'⟩
      · rintro (h | ⟨y', x', h, ⟨rfl, h'⟩ | h'⟩)
        · exact .inl (.inl h)
        · exact .inl (.inr ⟨x', h, h'⟩)
        · have hy : y' ≠ y := fun e => apart x' (e ▸ h')
          exact .inr ⟨y', x', by rw [drawByte_cells]; simpa [hy] using h, h'⟩

end Sys2Proof.Machine
end

