-- ==== Sys2Proof/Tests/Slice0.lean ====
section
/-! SUPPORT. The model's own tests. Each expected value comes from the spec: the ids S, V, F, A, M, G, K and L are
the vectors of 95_test_vectors.md, and the words are written out from the formats of 30_encoding.md. -/

namespace Sys2Proof.Tests
open Sys2Proof.Machine

/-! ### Helpers -/

/-- The state after one step (the state itself where there is no next one). -/
def stepped (s : State) : State :=
  match step s with
  | .next t => t
  | .fault _ => s
  | .refused _ => s

/-- The state after the word `w`, placed at pc, has run. -/
def after (s : State) (w : Nat) : State := stepped (s.withFetchWord 16 w)

/-- The reset state with some registers set. -/
def regs (l : List (RegIdx × Byte)) : State := l.foldl (fun s c => s.setV c.1 c.2) State.reset

/-- The reset state with I and some registers set. -/
def idx (a : Word) (l : List (RegIdx × Byte)) : State := (regs l).setI a

/-- V0 to VF hold 1 to 16. -/
def counted : State := { State.reset with V := Vector.ofFn fun k => BitVec.ofNat 8 (k.val + 1) }

/-- The reset state with `n` stack entries in use, entry k holding 0x200 + 6 + 2 * k. -/
def stacked (n : Fin 17) : State :=
  { State.reset with stack := Vector.ofFn fun k => BitVec.ofNat 16 (0x206 + 2 * k.val), sp := n }

/-- Both dialect parameters and the SYS report on. -/
def dialect (s : State) : State :=
  { s with params := { shiftReadsVy := true, loadstoreAdvancesI := true, sysReportsUnknown := true } }

/-- The lit cells of a row. -/
def lit (s : State) (y : Fin 32) : List (Fin 64) := (List.finRange 64).filter fun x => s.disp.cell y x

/-- The registers `l` and pc. -/
def view (s : State) (l : List RegIdx) : List Byte × Word := (l.map s.getV, s.pc)

/-! ### WellFormed: each check refuses an ill-formed term -/

theorem test_wf_sys_not_cls : (Instr.sys 0x0E0).wf = false := by decide
theorem test_wf_sys_not_cls_high : (Instr.sys 0xFE0).wf = false := by decide
theorem test_wf_sys_not_ret : (Instr.sys 0x0EE).wf = false := by decide
theorem test_wf_sys_not_ret_high : (Instr.sys 0x1EE).wf = false := by decide
theorem test_wf_sys : (Instr.sys 0xEE0).wf = false ∧ (Instr.sys 0xE00).wf = true := by decide

/-! ### Decode: for every constructor a word written out from 30_encoding.md (R50, R53) -/

theorem test_decode_family0 :
    decode 0b0000_0001_0010_0011#16 = .ok (.sys 0x123) ∧
    decode 0b0000_0000_1110_0000#16 = .ok (.cls 0) ∧
    decode 0b0000_0000_1110_1110#16 = .ok (.ret 0) := by decide
theorem test_decode_unexamined :
    decode 0b0000_0001_1110_0000#16 = .ok (.cls 1) ∧
    decode 0b0000_1111_1110_1110#16 = .ok (.ret 15) ∧
    decode 0b0101_0001_0010_0001#16 = .ok (.seXY 1 2 1) := by decide
theorem test_decode_flow :
    decode 0b0001_0010_0011_0100#16 = .ok (.jp 0x234) ∧
    decode 0b0010_0011_0000_0000#16 = .ok (.call 0x300) ∧
    decode 0b1011_1111_0000_0001#16 = .ok (.jpV0 0xF01) := by decide
theorem test_decode_skips :
    decode 0b0011_0011_0001_0010#16 = .ok (.seXNN 3 0x12) ∧
    decode 0b0100_0011_0001_0010#16 = .ok (.sneXNN 3 0x12) ∧
    decode 0b0101_0001_0010_0000#16 = .ok (.seXY 1 2 0) ∧
    decode 0b1001_0001_0010_0000#16 = .ok (.sneXY 1 2 0) := by decide
theorem test_decode_loads :
    decode 0b0110_1010_0100_0010#16 = .ok (.ldXNN 10 0x42) ∧
    decode 0b0111_0010_0000_0011#16 = .ok (.addXNN 2 0x03) ∧
    decode 0b1010_0010_1111_0000#16 = .ok (.ldI 0x2F0) ∧
    decode 0b1100_0011_0000_1111#16 = .ok (.rnd 3 0x0F) := by decide
theorem test_decode_family8 :
    decode 0b1000_0001_0010_0000#16 = .ok (.ldXY 1 2) ∧
    decode 0b1000_0001_0010_0001#16 = .ok (.orXY 1 2) ∧
    decode 0b1000_0001_0010_0010#16 = .ok (.andXY 1 2) ∧
    decode 0b1000_0001_0010_0011#16 = .ok (.xorXY 1 2) ∧
    decode 0b1000_0001_0010_0100#16 = .ok (.addXY 1 2) ∧
    decode 0b1000_0001_0010_0101#16 = .ok (.sub 1 2) ∧
    decode 0b1000_0001_0010_0110#16 = .ok (.shr 1 2) ∧
    decode 0b1000_0001_0010_0111#16 = .ok (.subn 1 2) ∧
    decode 0b1000_0001_0010_1110#16 = .ok (.shl 1 2) := by decide
theorem test_decode_draw_and_keys :
    decode 0b1101_1010_1011_0101#16 = .ok (.drw 10 11 5) ∧
    decode 0b1110_0010_1001_1110#16 = .ok (.skp 2) ∧
    decode 0b1110_0010_1010_0001#16 = .ok (.sknp 2) := by decide
theorem test_decode_familyF :
    decode 0b1111_0101_0000_0111#16 = .ok (.ldXDT 5) ∧
    decode 0b1111_0011_0000_1010#16 = .ok (.ldXK 3) ∧
    decode 0b1111_0001_0001_0101#16 = .ok (.ldDTX 1) ∧
    decode 0b1111_0001_0001_1000#16 = .ok (.ldSTX 1) ∧
    decode 0b1111_0100_0001_1110#16 = .ok (.addIX 4) ∧
    decode 0b1111_1100_0010_1001#16 = .ok (.ldFX 12) ∧
    decode 0b1111_0001_0011_0011#16 = .ok (.ldBX 1) ∧
    decode 0b1111_0011_0101_0101#16 = .ok (.ldMemX 3) ∧
    decode 0b1111_0011_0110_0101#16 = .ok (.ldXMem 3) := by decide
/-- V2, V3, V4. -/
theorem test_decode_unknown :
    decode 0x8128 = .error (.unknownOpcode 0x8128) ∧ decode 0x800F = .error (.unknownOpcode 0x800F) ∧
    decode 0xE1FF = .error (.unknownOpcode 0xE1FF) ∧ decode 0xF000 = .error (.unknownOpcode 0xF000) := by decide
/-- R48: two bytes are an instruction, one is not; what follows is handed back. -/
theorem test_decode_bytes :
    decodeBytes [0x12, 0x34, 0x56] = .ok (.jp 0x234, [0x56]) ∧ decodeBytes [0x12] = .error .truncated := by decide
theorem test_encode : encode (.drw 10 11 5) = 0xDAB5 ∧ encode (.seXY 1 2 1) = 0x5121 ∧ encode (.ret 15) = 0x0FEE := by
  decide

/-- One instruction of each constructor, families 0 to 9. -/
def samplesLow : List Instr :=
  [.sys 0, .cls 0, .ret 0, .jp 0, .call 0, .seXNN 0 0, .sneXNN 0 0, .seXY 0 0 0, .ldXNN 0 0, .addXNN 0 0, .ldXY 0 0,
    .orXY 0 0, .andXY 0 0, .xorXY 0 0, .addXY 0 0, .sub 0 0, .shr 0 0, .subn 0 0, .shl 0 0, .sneXY 0 0 0]

/-- The rest of the constructors. -/
def samplesHigh : List Instr :=
  [.ldI 0, .jpV0 0, .rnd 0 0, .drw 0 0 0, .skp 0, .sknp 0, .ldXDT 0, .ldXK 0, .ldDTX 0, .ldSTX 0, .addIX 0, .ldFX 0,
    .ldBX 0, .ldMemX 0, .ldXMem 0]

def samples : List Instr := samplesLow ++ samplesHigh

/-- Two rows that some word can match both agree where both masks look. -/
def overlap (a b : TableRow) : Bool := a.pattern &&& (a.mask &&& b.mask) == b.pattern &&& (a.mask &&& b.mask)

/-- R59: no two rows of the opcode table overlap but SYS with CLS and with RET. -/
theorem test_table_rows_disjoint : (samples.map tableRow).tail.Pairwise fun a b => overlap a b = false := by decide
theorem test_table_sys_overlaps :
    (samples.filter fun i => overlap (tableRow (.sys 0)) (tableRow i)) = [.sys 0, .cls 0, .ret 0] := by decide

/-! ### The interface -/

theorem test_table_word : decodeTableWord 16 0x6A42 = some (.ldXNN 10 0x42) := by decide
theorem test_fetch_word : (State.reset.withFetchWord 16 0x1234).fetchWord = 0x1234 := by decide
theorem test_fetch_word_past_the_end :
    (State.fetchWord (State.withFetchWord { State.reset with pc := 0xFFF } 16 0x1234)) = 0x1234 := by decide

/-! ### Memory and reset -/

theorem test_reset_memory_wf : State.reset.mem.wf = true := by decide
theorem reset_inv : State.reset.Inv := by
  constructor <;> decide
theorem test_memory_write_back : ((State.reset.mem.write 0x300 5).write 0x300 0) = State.reset.mem := by decide
theorem test_memory_sorted :
    ((State.reset.mem.write 0x301 5).write 0x300 6) = [(0x300, 6), (0x301, 5)] := by decide
/-- R27: the glyph of 0xF at 5 * 0xF (the bytes of P3). -/
theorem test_font : State.reset.mem.readBytes 0x4B 5 = [0xF0, 0x80, 0xF0, 0x80, 0x80] := by decide
/-- L1: the reset verb from reset gives the reset state back. -/
theorem test_reset_verb : State.reset.resetVerb = State.reset := by decide

/-! ### The step (V1 to V11) -/

/-- V2. -/
theorem test_unknown_word :
    after State.reset 0x8128 = { State.reset with
      mem := [(0x200, 0x81), (0x201, 0x28)], pc := 0x202, lastCond := .unknownOpcode, seen := 0b0001
      lastInfo := { pc := 0x200, word := 0x8128, kind := .none, addr := 0 } } := by decide
/-- V8, second step, and V9. -/
theorem test_fetch_past_the_end :
    stepped { State.reset with pc := 0x1000 } = { State.reset with
      pc := 0x1000, halt := .memoryOutOfBounds, lastCond := .memoryOutOfBounds, seen := 0b1000
      lastInfo := { pc := 0x1000, word := 0, kind := .fetch, addr := 0x1000 } } ∧
    (stepped { State.reset with pc := 0xFFF }).lastInfo.addr = 0x1000 := by decide
/-- V8, first step: the last two bytes can be fetched. -/
theorem test_fetch_at_the_end : stepped { State.reset with pc := 0xFFE } = { State.reset with pc := 0x1000 } := by
  decide
/-- V10. -/
theorem test_halted : stepped { State.reset with halt := .stackOverflow } =
    { State.reset with halt := .stackOverflow } := by decide

/-! ### Control transfer (F1 to F14, S2, V5) -/

/-- V5. -/
theorem test_sys : (after State.reset 0x0123).lastCond = .none ∧
    (after (dialect State.reset) 0x0123).lastCond = .unknownOpcode ∧ (after State.reset 0x0123).pc = 0x202 := by decide
theorem test_jp : (after State.reset 0x1234).pc = 0x234 ∧ (after State.reset 0x1201).pc = 0x201 := by decide
/-- F3. -/
theorem test_call : let t := after State.reset 0x2300
    t.pc = 0x300 ∧ t.sp = 1 ∧ t.stack.get 0 = 0x202 := by decide
/-- F7. -/
theorem test_call_overflow : let t := after (stacked 16) 0x2300
    t.pc = 0x200 ∧ t.sp = 16 ∧ t.stack = (stacked 16).stack ∧ t.halt = .stackOverflow := by decide
/-- F4. -/
theorem test_ret : let t := after (stacked 1) 0x00EE
    t.pc = 0x206 ∧ t.sp = 0 ∧ t.stack.get 0 = 0x206 := by decide
/-- F6. -/
theorem test_ret_underflow : let t := after State.reset 0x0FEE
    t.pc = 0x200 ∧ t.halt = .stackUnderflow ∧
      t.lastInfo = { pc := 0x200, word := 0x0FEE, kind := .none, addr := 0 } := by decide
/-- S2. -/
theorem test_seXNN : (after (regs [(3, 0x12)]) 0x3312).pc = 0x204 ∧
    (after (regs [(3, 0x13)]) 0x3312).pc = 0x202 := by decide
/-- F8. -/
theorem test_sneXNN : (after (regs [(3, 0x13)]) 0x4312).pc = 0x204 ∧
    (after (regs [(3, 0x12)]) 0x4312).pc = 0x202 := by decide
/-- F9, V7. -/
theorem test_seXY : (after (regs [(1, 7), (2, 7)]) 0x5120).pc = 0x204 ∧
    (after (regs [(1, 7), (2, 8)]) 0x5121).pc = 0x202 := by decide
/-- F10. -/
theorem test_sneXY : (after (regs [(1, 7), (2, 8)]) 0x9120).pc = 0x204 ∧
    (after (regs [(1, 7), (2, 7)]) 0x9120).pc = 0x202 := by decide
/-- F12, F13. -/
theorem test_jpV0 : (after (regs [(0, 0xFF)]) 0xBF01).pc = 0x1000 ∧ (after (regs [(0, 4), (3, 9)]) 0xB300).pc = 0x304 := by
  decide
/-- F14. -/
theorem test_skip_past_the_end : (after { regs [(3, 0x12)] with pc := 0xFFC } 0x3312).pc = 0x1000 := by decide

/-! ### The ALU (S1, S3, S4, A1 to A24) -/

/-- S1. -/
theorem test_ldXNN : view (after State.reset 0x6A42) [10] = ([0x42], 0x202) := by decide
/-- A1, A2. -/
theorem test_addXNN : (view (after (regs [(2, 0xFE), (VF, 5)]) 0x7203) [2, VF]).1 = [0x01, 0x05] ∧
    (after (regs [(VF, 0x7F)]) 0x7F01).getV VF = 0x80 := by decide
/-- A3. -/
theorem test_ldXY : (view (after (regs [(2, 0x9C), (VF, 1)]) 0x8120) [1, 2, VF]).1 = [0x9C, 0x9C, 1] := by decide
/-- A4, A5, A6. -/
theorem test_bitwise :
    (view (after (regs [(1, 0x0C), (2, 0x03), (VF, 1)]) 0x8121) [1, VF]).1 = [0x0F, 0] ∧
    (view (after (regs [(1, 0x0C), (2, 0x06), (VF, 1)]) 0x8122) [1, VF]).1 = [0x04, 0] ∧
    (view (after (regs [(1, 0x0C), (2, 0x06), (VF, 1)]) 0x8123) [1, VF]).1 = [0x0A, 0] := by decide
/-- S3, A8. -/
theorem test_addXY : (view (after (regs [(1, 0xFF), (2, 0x02)]) 0x8124) [1, VF]).1 = [0x01, 1] ∧
    (view (after (regs [(3, 0x7F), (4, 0x80)]) 0x8344) [3, VF]).1 = [0xFF, 0] := by decide
/-- A9. -/
theorem test_addXY_into_flag : (after (regs [(VF, 0x80), (1, 0x90)]) 0x8F14).getV VF = 1 := by decide
/-- S4, A10. -/
theorem test_sub : (view (after (regs [(1, 0x05), (2, 0x09)]) 0x8125) [1, VF]).1 = [0xFC, 0] ∧
    (view (after (regs [(3, 7), (4, 7)]) 0x8345) [3, VF]).1 = [0, 1] := by decide
/-- A12, A13. -/
theorem test_subn : (view (after (regs [(1, 0x09), (2, 0x05)]) 0x8127) [1, VF]).1 = [0xFC, 0] ∧
    (view (after (regs [(1, 0x05), (2, 0x09)]) 0x8127) [1, VF]).1 = [0x04, 1] := by decide
/-- A15, A20. -/
theorem test_shr : (view (after (regs [(5, 0x05)]) 0x8506) [5, VF]).1 = [0x02, 1] ∧
    (view (after (dialect (regs [(1, 0x81), (2, 0x40)])) 0x8126) [1, VF]).1 = [0x20, 0] := by decide
/-- A18, A21. -/
theorem test_shl : (view (after (regs [(5, 0x81)]) 0x850E) [5, VF]).1 = [0x02, 1] ∧
    (view (after (dialect (regs [(1, 0x81), (2, 0x40)])) 0x812E) [1, VF]).1 = [0x80, 0] := by decide
/-- A22, A24. -/
theorem test_rnd : (view (after { regs [(VF, 3)] with drawIn := some 0xB7 } 0xC30F) [3, VF]).1 = [0x07, 3] ∧
    (after { State.reset with drawIn := some 0xB7 } 0xC0FF).getV 0 = 0xB7 := by decide

/-! ### Index and memory (S5, S6, M1 to M18) -/

/-- M1. -/
theorem test_ldI : (after State.reset 0xA2F0).I = 0x2F0 := by decide
/-- M3, M4. -/
theorem test_addIX : (after (idx 0xFFFF [(1, 2)]) 0xF11E).I = 1 ∧
    (after (idx 0x0FFF [(1, 1)]) 0xF11E).I = 0x1000 := by decide
/-- M5, M6. -/
theorem test_ldFX : (after (regs [(12, 15)]) 0xFC29).I = 0x04B ∧ (after (regs [(1, 0xFF)]) 0xF129).I = 0x4FB := by decide
/-- S5. -/
theorem test_ldBX : let t := after (idx 0x300 [(1, 234)]) 0xF133
    t.mem.readBytes 0x300 3 = [2, 3, 4] ∧ t.I = 0x300 := by decide
/-- M11. -/
theorem test_ldBX_out_of_range : after (idx 0xFFE []) 0xF033 = { idx 0xFFE [] with
    mem := [(0x200, 0xF0), (0x201, 0x33)], pc := 0x202, lastCond := .memoryOutOfBounds, seen := 0b1000
    lastInfo := { pc := 0x200, word := 0xF033, kind := .data, addr := 0x1000 } } := by decide
/-- M12. -/
theorem test_ldMemX : (after (counted.setI 0xFF0) 0xFF55).mem.readBytes 0xFF0 16 =
    [1, 2, 3, 4, 5, 6, 7, 8, 9, 10, 11, 12, 13, 14, 15, 16] := by decide
/-- M14. -/
theorem test_ldMemX_advances : let t := after (dialect (counted.setI 0x300)) 0xF355
    t.mem.readBytes 0x300 5 = [1, 2, 3, 4, 0] ∧ t.I = 0x304 := by decide
/-- M15. -/
theorem test_ldXMem : (view (after ((idx 0x300 [(1, 0x55)]).store 0x300 [0xAA, 0xBB]) 0xF065) [0, 1]).1 = [0xAA, 0x55] := by
  decide
/-- M16, M17. -/
theorem test_ldXMem_flag_and_range :
    (after ((idx 0x300 []).store 0x30F [0x42]) 0xFF65).getV VF = 0x42 ∧
    (after (idx 0x1000 [(0, 9)]) 0xF065).getV 0 = 9 := by decide
/-- M18: the lowest out-of-range address is I itself. -/
theorem test_range_address : (after (idx 0xFFFF []) 0xF033).lastInfo.addr = 0xFFFF := by decide

/-! ### The display (S8, G1 to G8) -/

/-- S8. -/
theorem test_cls : let t := after { State.reset with disp := Display.clear.setCell 31 63 true } 0x00E0
    t.disp = Display.clear ∧ t.dirty = true := by decide
/-- G3. -/
theorem test_drw_wraps : let t := after (regs [(0, 0x7F), (1, 0x3F)]) 0xD011
    lit t 31 = [0, 1, 2, 63] ∧ t.getV VF = 0 ∧ t.dirty = true := by decide
/-- G2: the second draw of glyph 0. -/
theorem test_drw_twice : let t := after { after (regs [(VF, 0)]) 0xD015 with pc := 0x200 } 0xD015
    t.disp = Display.clear ∧ t.getV VF = 1 := by decide

/-! ### Keypad and timers (S9, K1 to K13, V11) -/

/-- K1, K4. -/
theorem test_skp : (after ((regs [(2, 5)]).setKey 5 true) 0xE29E).pc = 0x204 ∧
    (after ((regs [(1, 0x1A)]).setKey 10 true) 0xE19E).pc = 0x204 := by decide
/-- K2 and K3. -/
theorem test_sknp : (after (regs [(2, 5)]) 0xE2A1).pc = 0x204 ∧
    (after ((regs [(2, 5)]).setKey 5 true) 0xE2A1).pc = 0x202 := by decide
/-- K8. -/
theorem test_ldXDT : let t := after (State.reset.setDT 0x3C) 0xF507
    t.getV 5 = 0x3C ∧ t.DT = 0x3C := by decide
/-- K6, S9. -/
theorem test_ldXK : view (after ((State.reset.setKey 7 true).setKey 9 true) 0xF30A) [3] = ([7], 0x202) ∧
    (after State.reset 0xF30A).pc = 0x200 := by decide
/-- K9. -/
theorem test_ldDTX : let t := after (regs [(1, 0x3C)]) 0xF115
    t.DT = 0x3C ∧ t.ST = 0 := by decide
/-- K10, K11. -/
theorem test_ldSTX : let t := after (regs [(1, 8)]) 0xF118
    t.ST = 8 ∧ t.DT = 0 ∧ t.soundActive = true ∧ (after (State.reset.setST 5) 0xF118).soundActive = false := by decide
/-- K12 and V11. -/
theorem test_tick : (State.reset.setST 2).tick = (State.reset.setST 1, false) ∧
    (State.reset.setST 1).tick = (State.reset, true) ∧ State.reset.tick = (State.reset, false) ∧
    (State.tick { State.reset with DT := 3, halt := .stackOverflow }).1.DT = 2 := by decide

/-! ### Load (L2 to L5) -/

theorem test_load : let t := (State.load { State.reset with halt := .stackUnderflow } [0x12, 0x00]).1
    t.mem = [(0x200, 0x12)] ∧ t.halt = .stackUnderflow := by decide
theorem test_load_sizes :
    (State.reset.load (List.replicate 3584 1)).2 = .ok ∧ (State.reset.load (List.replicate 3585 1)).2 = .romTooLarge ∧
    State.reset.load [] = (State.reset, .ok) := by
  refine ⟨?_, ?_, by decide⟩
  · exact congrArg Prod.snd (if_neg (by rw [List.length_replicate]; decide))
  · exact congrArg Prod.snd (if_pos (by rw [List.length_replicate]; decide))

/-! ### Witnesses: for each statement with hypotheses, states and operands that meet them together -/

/-- The state after `exec i` (the state itself where there is no next one). -/
def ran (i : Instr) (s : State) : State :=
  match exec i s with
  | .next t => t
  | .fault _ => s
  | .refused _ => s

/-- The reset state at pc `a`, with the word `w` placed there. -/
def placed (a : Word) (w : Nat) : State := State.withFetchWord { State.reset with pc := a } 16 w

/-- A halted state that meets the invariant. -/
def haltedState : State := stepped (placed 0x200 0x00EE)

theorem witness_EncodeThenDecodeGivesInstructionBack :
    (Instr.sys 0xFFF).wf = true ∧ (Instr.cls 15).wf = true ∧ (Instr.drw 15 15 15).wf = true := by decide
theorem witness_DecodedWordIsItsOwnEncoding :
    decode 0x0FEE = .ok (.ret 15) ∧ decode 0xFF65 = .ok (.ldXMem 15) := by decide
/-- Each of the three kinds of UNKNOWN word, at the edges of its kind. -/
theorem witness_UnknownWordsAreExactlyThese :
    (0x8FF8#16 = 0x8#4 ++ 0xF#4 ++ 0xF#4 ++ 0x8#4 ∧ decode 0x8FF8 = .error (.unknownOpcode 0x8FF8)) ∧
    (0x800F#16 = 0x8#4 ++ 0x0#4 ++ 0x0#4 ++ 0xF#4 ∧ decode 0x800F = .error (.unknownOpcode 0x800F)) ∧
    (0xE09F#16 = 0xE#4 ++ 0x0#4 ++ 0x9F#8 ∧ decode 0xE09F = .error (.unknownOpcode 0xE09F)) ∧
    (0xFFFF#16 = 0xF#4 ++ 0xF#4 ++ 0xFF#8 ∧ decode 0xFFFF = .error (.unknownOpcode 0xFFFF)) := by decide
theorem witness_OpcodeTableDecidesDecoding :
    (decode 0x00E0 = .ok (.cls 0) ∧ (tableRow (.cls 0)).hits 0x00E0 = true ∧ (tableRow (.sys 0)).hits 0x00E0 = true) ∧
    (decode 0x8124 = .ok (.addXY 1 2) ∧ (tableRow (.addXY 0 0)).hits 0x8124 = true) ∧
    decode 0x8128 = .error (.unknownOpcode 0x8128) := by decide
theorem witness_StepRunsDecodedInstruction :
    let s := placed 0xFFE 0x1234
    s.halt = .none ∧ s.pc.toNat ≤ 0xFFE ∧
      decode (s.mem.read s.pc.toNat ++ s.mem.read (s.pc.toNat + 1)) = .ok (.jp 0x234) := by decide
theorem witness_HaltedStepChangesNothing : haltedState.halt ≠ .none := by decide
theorem witness_FetchPastTheEndHalts :
    (let s := { State.reset with pc := 0xFFF }; s.halt = .none ∧ 0xFFE < s.pc.toNat) ∧
    (let s := { State.reset with pc := 0xFFFF }; s.halt = .none ∧ 0xFFE < s.pc.toNat) := by decide
theorem witness_UnknownWordOnlyAdvances :
    let s := placed 0x200 0x8128
    s.halt = .none ∧ s.pc.toNat ≤ 0xFFE ∧ 0x8128#16 = s.mem.read s.pc.toNat ++ s.mem.read (s.pc.toNat + 1) ∧
      decode 0x8128 = .error (.unknownOpcode 0x8128) := by decide
/-- A stack condition and a fetch both halt. -/
theorem witness_FatalConditionIsPrecise :
    (step (placed 0x200 0x00EE) = .next haltedState ∧ (placed 0x200 0x00EE).halt = .none ∧ haltedState.halt ≠ .none) ∧
    (let s := { State.reset with pc := 0xFFF };
      step s = .next (stepped s) ∧ s.halt = .none ∧ (stepped s).halt ≠ .none) :=
  ⟨⟨rfl, by decide, by decide⟩, rfl, by decide, by decide⟩
/-- An unknown word and an out-of-range transfer both go on. -/
theorem witness_NonFatalConditionOnlyAdvances :
    (let s := placed 0x200 0x8128;
      step s = .next (stepped s) ∧ s.halt = .none ∧ (stepped s).halt = .none ∧ (stepped s).lastCond ≠ .none) ∧
    (let s := (placed 0x200 0xF033).setI 0xFFE;
      step s = .next (stepped s) ∧ s.halt = .none ∧ (stepped s).halt = .none ∧ (stepped s).lastCond ≠ .none) :=
  ⟨⟨rfl, by decide, by decide, by decide⟩, rfl, by decide, by decide, by decide⟩
/-- Each clause: nothing, and each of the four conditions, the last one of both kinds. -/
theorem witness_StatusRecordsEachStep :
    (∀ s ∈ [placed 0x200 0x1234, placed 0x200 0x8128, State.withFetchWord (stacked 16) 16 0x2300, placed 0x200 0x00EE,
      { State.reset with pc := 0x1000 }, (placed 0x200 0xF033).setI 0xFFE], s.halt = .none ∧ step s = .next (stepped s)) ∧
    (stepped (placed 0x200 0x1234)).lastCond = .none ∧ (stepped (placed 0x200 0x8128)).lastCond = .unknownOpcode ∧
    (after (stacked 16) 0x2300).lastCond = .stackOverflow ∧ haltedState.lastCond = .stackUnderflow ∧
    (stepped { State.reset with pc := 0x1000 }).lastInfo.kind = .fetch ∧
    (stepped ((placed 0x200 0xF033).setI 0xFFE)).lastInfo.kind = .data := by
  refine ⟨?_, by decide, by decide, by decide, by decide, by decide, by decide⟩
  intro s hs
  fin_cases hs <;> exact ⟨by decide, rfl⟩
theorem witness_TimersKeysAndDirtyHaveTheirWriters :
    (let s := (placed 0x200 0xF115).setV 1 9;
      step s = .next (stepped s) ∧ (stepped s).DT ≠ s.DT) ∧
    (let s := (placed 0x200 0xF118).setV 1 9;
      step s = .next (stepped s) ∧ (stepped s).ST ≠ s.ST) ∧
    (let s := placed 0x200 0x00E0;
      step s = .next (stepped s) ∧ (stepped s).dirty ≠ s.dirty) :=
  ⟨⟨rfl, by decide⟩, ⟨rfl, by decide⟩, rfl, by decide⟩
theorem witness_DisplayChangesOnlyByDrawAndClear :
    let s := placed 0x200 0xD011
    step s = .next (stepped s) ∧ (stepped s).disp ≠ s.disp := ⟨rfl, by decide⟩
theorem witness_HostOnlyStateIsNeverRead :
    step (placed 0x200 0x00EE) = .next haltedState ∧ step haltedState = .next haltedState := ⟨rfl, rfl⟩
/-- The boundary: the entry at sp itself, and sp = 0 with the last entry. -/
theorem witness_StaleStackEntriesAreNeverRead :
    (let s := State.withFetchWord (stacked 15) 16 0x00EE;
      s.sp.val ≤ (15 : Fin 16).val ∧ step s = .next (stepped s)) ∧
    (let s := placed 0x200 0x2300;
      s.sp.val ≤ (15 : Fin 16).val ∧ step s = .next (stepped s)) :=
  ⟨⟨by decide, rfl⟩, by decide, rfl⟩
theorem witness_EntropyReachesOnlyRandom :
    let s := placed 0x200 0x1234
    step s = .next (stepped s) ∧ ∀ x nn, decode s.fetchWord ≠ .ok (.rnd x nn) := by
  refine ⟨rfl, fun x nn h => ?_⟩
  rw [show decode (placed 0x200 0x1234).fetchWord = .ok (.jp 0x234) by decide] at h
  cases h
/-- From reset, and into the halted state. -/
theorem witness_EveryStepKeepsTheInvariant :
    State.reset.Inv ∧ step State.reset = .next (stepped State.reset) ∧
    step { State.reset with pc := 0x1000 } = .next (stepped { State.reset with pc := 0x1000 }) ∧
    State.Inv { State.reset with pc := 0x1000 } := by
  refine ⟨reset_inv, rfl, rfl, ?_⟩
  constructor <;> decide
theorem witness_EveryVerbSequenceKeepsTheInvariant :
    State.reset.Inv ∧
    ∃ t, State.reset.applyAll [.load [0xC0, 0xFF], .setKey 3 true, .step 0xB7, .tick, .ackDisplay, .observe, .reset] =
      .next t := ⟨reset_inv, _, rfl⟩
theorem witness_MemoriesThatReadAlikeAreEqual :
    let m : Memory := [(0, 0), (0xFFF, 7)]
    m.wf = true ∧ ∀ a, m.read a = m.read a := ⟨by decide, fun _ => rfl⟩
/-- Both clauses at their edges: an empty stack, one entry left, and a full stack. -/
theorem witness_CallPushesReturnAddress :
    (stacked 0).sp.val < 16 ∧ (stacked 15).sp.val < 16 ∧ (stacked 16).sp.val = 16 := by decide
theorem witness_ReturnPopsIntoPc :
    (stacked 1).sp.val = (0 : Fin 16).val + 1 ∧ (stacked 16).sp.val = (15 : Fin 16).val + 1 ∧ (stacked 0).sp.val = 0 := by
  decide
theorem witness_ReturnUndoesCall :
    let s := stacked 15
    let t := ran (.call 0x300) s
    s.sp.val < 16 ∧ exec (.call 0x300) s = .next t ∧ (t.setV 3 9).stack = t.stack ∧ (t.setV 3 9).sp = t.sp :=
  ⟨by decide, rfl, rfl, rfl⟩
theorem witness_SysHasNoEffect :
    ((0xFE1#12).extractLsb' 0 8 ≠ 0xE0#8 ∧ (0xFE1#12).extractLsb' 0 8 ≠ 0xEE#8) ∧
    State.reset.params.sysReportsUnknown = false ∧ (dialect State.reset).params.sysReportsUnknown = true := by decide
theorem witness_SelfJumpIdles :
    (placed 0x208 0x1208).halted = false ∧ (placed 0x208 0x1208).atSelfJump = true ∧
    (placed 0xFFE 0x1FFE).atSelfJump = true := by decide
/-- A destination other than VF, which the result clauses ask for, and VF itself. -/
theorem witness_AddSetsCarry : (14 : RegIdx) ≠ VF ∧ (15 : RegIdx) = VF := by decide
theorem witness_SubtractionsSetNoBorrow : (0 : RegIdx) ≠ VF ∧ (14 : RegIdx) ≠ VF := by decide
theorem witness_ShiftsSetTheBitShiftedOut :
    (let s := regs [(1, 0x81), (2, 0x40)];
      0x81 = if s.params.shiftReadsVy then (s.getV 2).toNat else (s.getV 1).toNat) ∧
    (let s := dialect (regs [(1, 0x81), (2, 0x40)]);
      0x40 = if s.params.shiftReadsVy then (s.getV 2).toNat else (s.getV 1).toNat) := by decide
theorem witness_RandomByteIsMasked : State.drawIn { State.reset with drawIn := some 0xB7 } = some 0xB7 := by decide
theorem witness_StepVerbSuppliesTheDraw :
    let s := placed 0xFFE 0xCFFF
    s.halt = .none ∧ s.pc.toNat ≤ 0xFFE ∧ decode s.fetchWord = .ok (.rnd 15 0xFF) := by decide
theorem witness_BcdStoresThreeDigits : (idx 0xFFD []).I.toNat + 2 ≤ 0xFFF := by decide
theorem witness_DumpStoresRegisters :
    (idx 0xFF0 []).I.toNat + (15 : RegIdx).val ≤ 0xFFF ∧ (idx 0xFFF []).I.toNat + (0 : RegIdx).val ≤ 0xFFF := by decide
theorem witness_LoadReadsRegisters :
    (idx 0xFF0 []).I.toNat + (15 : RegIdx).val ≤ 0xFFF ∧ (idx 0xFFF []).I.toNat + (0 : RegIdx).val ≤ 0xFFF := by decide
theorem witness_LoadAfterDumpRestoresRegisters :
    let s := counted.setI 0xFF0
    let t := ran (.ldMemX 15) s
    let m := { State.reset with mem := t.mem, I := s.I }
    s.I.toNat + (15 : RegIdx).val ≤ 0xFFF ∧ exec (.ldMemX 15) s = .next t ∧ m.mem = t.mem ∧ m.I = s.I ∧
      exec (.ldXMem 15) m = .next (ran (.ldXMem 15) m) := ⟨by decide, rfl, rfl, rfl, rfl⟩
/-- Each clause at its first out-of-range I. -/
theorem witness_OutOfRangeTransferHasNoEffect :
    0xFFF < (idx 0xFFE []).I.toNat + 2 ∧ 0xFFF < (idx 0xFF1 []).I.toNat + (15 : RegIdx).val ∧
    0xFFF < (idx 0x1000 []).I.toNat + (0 : RegIdx).val ∧
    (0 < (1 : Fin 16).val ∧ 0xFFF < (idx 0x1000 []).I.toNat + (1 : Fin 16).val - 1) ∧
    (0 < (15 : Fin 16).val ∧ 0xFFF < (idx 0xFF2 []).I.toNat + (15 : Fin 16).val - 1) := by decide
theorem witness_StoreIsSeenByTheNextFetch :
    let s := { counted with pc := 0xFFE, I := 0xFFE }
    1 ≤ (1 : RegIdx).val ∧ s.I = s.pc ∧ s.I.toNat + (1 : RegIdx).val ≤ 0xFFF ∧
      exec (.ldMemX 1) s = .next (ran (.ldMemX 1) s) := ⟨by decide, rfl, by decide, rfl⟩
/-- No rows at any I, fifteen rows up to the last byte; a sprite that meets a lit cell, and one that meets none. -/
theorem witness_DrawXorsTheSprite :
    ((0 : Fin 16).val = 0 ∨ (idx 0xFFFF []).I.toNat + (0 : Fin 16).val - 1 ≤ 0xFFF) ∧
    ((15 : Fin 16).val = 0 ∨ (idx 0xFF1 []).I.toNat + (15 : Fin 16).val - 1 ≤ 0xFFF) ∧
    (∃ cy cx, (State.disp { State.reset with disp := Display.clear.setCell 0 0 true }).cell cy cx = true ∧
      State.spriteCovers { State.reset with disp := Display.clear.setCell 0 0 true } 0 1 1 cy cx) ∧
    (∀ cy cx, State.reset.disp.cell cy cx = true → ¬ State.reset.spriteCovers 0 1 1 cy cx) := by
  refine ⟨by decide, by decide, ⟨0, 0, by decide, 0, by decide, 0, by decide, by decide, by decide, by decide⟩, ?_⟩
  intro cy cx h
  exact absurd h (by simp [show State.reset.disp = Display.clear from rfl])
theorem witness_DrawTwiceRestoresTheDisplay :
    let s := State.reset
    let t := ran (.drw 0 1 5) s
    ((5 : Fin 16).val = 0 ∨ s.I.toNat + (5 : Fin 16).val - 1 ≤ 0xFFF) ∧ exec (.drw 0 1 5) s = .next t ∧
      t.disp = t.disp ∧ t.mem = s.mem ∧ t.I = s.I ∧ t.getV 0 = s.getV 0 ∧ t.getV 1 = s.getV 1 ∧
      exec (.drw 0 1 5) t = .next (ran (.drw 0 1 5) t) ∧
      ∀ cy cx, ¬ (s.disp.cell cy cx = true ∧ s.spriteCovers 0 1 5 cy cx) := by
  refine ⟨by decide, rfl, rfl, rfl, rfl, rfl, rfl, rfl, ?_⟩
  intro cy cx h
  exact absurd h.1 (by simp [show State.reset.disp = Display.clear from rfl])
/-- The key of a register above 15, and the last key. -/
theorem witness_KeySkipsTestTheSelectedKey :
    (10 : RegIdx).val = ((regs [(1, 0x1A)]).getV 1).toNat % 16 ∧
    (15 : RegIdx).val = ((regs [(1, 0xFF)]).getV 1).toNat % 16 := by decide
theorem witness_KeyWaitTakesTheLeastKey :
    (let s := (State.reset.setKey 7 true).setKey 9 true;
      s.key.get 7 = true ∧ ∀ j, j < 7 → s.key.get j = false) ∧
    (let s := State.reset.setKey 15 true;
      s.key.get 15 = true ∧ ∀ j, j < 15 → s.key.get j = false) ∧
    (∀ k, State.reset.key.get k = false) := by decide
theorem witness_KeyWaitStaysInPlace :
    let s := placed 0xFFE 0xFF0A
    s.halt = .none ∧ s.pc.toNat ≤ 0xFFE ∧ decode s.fetchWord = .ok (.ldXK 15) ∧ ∀ k, s.key.get k = false := by decide
/-- The longest image that is accepted, and the shortest that is refused. -/
theorem witness_LoadAcceptsUpToRomMax :
    (List.replicate 3584 (1 : Byte)).length ≤ 3584 ∧ 3584 < (List.replicate 3585 (1 : Byte)).length := by
  rw [List.length_replicate, List.length_replicate]; decide
theorem witness_OnlyResetEndsTheHalt :
    Verb.reset ∉ [Verb.step 0, .tick, .load [1], .setKey 0 true] ∧ haltedState.halt ≠ .none ∧
    ∃ t, haltedState.applyAll [.step 0, .tick, .load [1], .setKey 0 true] = .next t :=
  ⟨by decide, by decide, _, rfl⟩

end Sys2Proof.Tests
end

section
/-! SUPPORT. The step (40_cycle.md R69): one equation for each of its ends, what a step may change, and the
statements of the cycle settled from them. -/

namespace Sys2Proof.Machine

/-! ### The four ends of a step -/

theorem State.fetchOutOfRange_eq_false (s : State) : s.fetchOutOfRange = false ↔ s.pc.toNat ≤ 0xFFE := by
  simp [State.fetchOutOfRange, Nat.lt_succ_iff]

theorem State.fetchOutOfRange_eq_true (s : State) : s.fetchOutOfRange = true ↔ 0xFFE < s.pc.toNat := by
  simp [State.fetchOutOfRange, Nat.succ_le_iff]

/-- R61. -/
theorem step_halted (s : State) (hh : s.halt ≠ .none) : step s = .next s := by
  simp [step, hh]

/-- R63. -/
theorem step_fetchOutOfRange (s : State) (hh : s.halt = .none) (hp : 0xFFE < s.pc.toNat) :
    step s = .next s.raiseFetch := by
  simp [step, hh, s.fetchOutOfRange_eq_true.2 hp]

/-- R64, R65. -/
theorem step_decoded (s : State) (i : Instr) (hh : s.halt = .none) (hp : s.pc.toNat ≤ 0xFFE)
    (hd : decode s.fetchWord = .ok i) : step s = exec i s.advance := by
  simp [step, hh, s.fetchOutOfRange_eq_false.2 hp, hd]

/-- R68. -/
theorem step_unknown (s : State) (r : Reject) (hh : s.halt = .none) (hp : s.pc.toNat ≤ 0xFFE)
    (hd : decode s.fetchWord = .error r) : step s = .next (s.advance.raiseUnknown s.fetchWord) := by
  simp [step, hh, s.fetchOutOfRange_eq_false.2 hp, hd]

/-! ### What a step may change -/

@[simp] theorem State.advance_instrAddr (s : State) : s.advance.instrAddr = s.pc := by
  simp [State.instrAddr]

theorem ChangesOnly.refl (T : Touched) (s : State) : ChangesOnly T s s := by
  constructor <;> simp

/-- Raising a condition writes the status elements and pc, and nothing else (R115, R116). -/
theorem ChangesOnly.raise (T : Touched) (s : State) (c : Cond) (info : CondInfo) (h : T.status = true) :
    ChangesOnly T s (s.raise c info) := by
  constructor <;> simp [h]

/-- The base advance writes pc alone, which no frame compares. -/
theorem ChangesOnly.of_advance (T : Touched) (s t : State) (h : ChangesOnly T s.advance t) : ChangesOnly T s t :=
  ⟨h.regs, h.mem, h.I, h.stack, h.timers, h.key, h.disp, h.dirty, h.status, h.params, h.draws⟩

/-- What an instruction changes, a condition it raises included. -/
theorem exec_changesOnly (i : Instr) (s t : State) (h : exec i s = .next t) :
    ChangesOnly { touched s i with status := true } s t := by
  obtain ⟨t', ht', hends⟩ := exec_cases i s
  obtain rfl : t' = t := by simpa [ht'] using h
  obtain ⟨a, -, -, hf⟩ | ⟨c, info, -, rfl⟩ := hends
  · exact ⟨hf.regs, hf.mem, hf.I, hf.stack, hf.timers, hf.key, hf.disp, hf.dirty, nofun, hf.params, hf.draws⟩
  · exact .raise _ _ _ _ rfl

/-- A step writes at most the status elements and pc, unless it runs the instruction of the fetched word. -/
theorem step_changesOnly_or_exec (s t : State) (h : step s = .next t) :
    ChangesOnly { status := true } s t ∨ ∃ i, decode s.fetchWord = .ok i ∧ exec i s.advance = .next t := by
  by_cases hh : s.halt = .none
  case neg =>
    obtain rfl : s = t := by simpa [step_halted s hh] using h
    exact .inl (.refl _ _)
  by_cases hp : s.pc.toNat ≤ 0xFFE
  case neg =>
    obtain rfl : s.raiseFetch = t := by simpa [step_fetchOutOfRange s hh (not_le.1 hp)] using h
    exact .inl (.raise _ _ _ _ rfl)
  cases hd : decode s.fetchWord with
  | ok i => exact .inr ⟨i, rfl, step_decoded s i hh hp hd ▸ h⟩
  | error r =>
    obtain rfl : s.advance.raiseUnknown s.fetchWord = t := by simpa [step_unknown s r hh hp hd] using h
    exact .inl (.of_advance _ _ _ (.raise _ _ _ _ rfl))

/-! ### The writers of the timers and of dirty (R71) -/

theorem touched_timers (s : State) (i : Instr) (h : (touched s i).timers = true) :
    (∃ x, i = .ldDTX x) ∨ ∃ x, i = .ldSTX x := by
  cases i <;> simp_all [touched]

theorem touched_dirty (s : State) (i : Instr) (h : (touched s i).dirty = true) :
    (∃ u, i = .cls u) ∨ ∃ x y n, i = .drw x y n := by
  cases i <;> simp_all [touched]

theorem exec_ldDTX (x : RegIdx) (s : State) : exec (.ldDTX x) s = .next (s.setDT (s.getV x)).quiet := rfl

theorem exec_ldSTX (x : RegIdx) (s : State) : exec (.ldSTX x) s = .next (s.setST (s.getV x)).quiet := rfl

/-- An instruction that changes a timer is one of the two timer writers: its frame names the timers. -/
theorem exec_timers (i : Instr) (s t : State) (h : exec i s = .next t) (hne : t.DT ≠ s.DT ∨ t.ST ≠ s.ST) :
    (∃ x, i = .ldDTX x) ∨ ∃ x, i = .ldSTX x := by
  refine touched_timers s i (Bool.eq_true_of_not_eq_false fun hT => ?_)
  obtain ⟨hDT, hST⟩ := (exec_changesOnly i s t h).timers hT
  exact hne.elim (· hDT) (· hST)

theorem exec_DT_writer (i : Instr) (s t : State) (h : exec i s = .next t) (hne : t.DT ≠ s.DT) :
    ∃ x, i = .ldDTX x := by
  obtain hx | ⟨x, rfl⟩ := exec_timers i s t h (.inl hne)
  · exact hx
  · obtain rfl : (s.setST (s.getV x)).quiet = t := by simpa [exec_ldSTX] using h
    exact absurd (by simp) hne

theorem exec_ST_writer (i : Instr) (s t : State) (h : exec i s = .next t) (hne : t.ST ≠ s.ST) :
    ∃ x, i = .ldSTX x := by
  obtain ⟨x, rfl⟩ | hx := exec_timers i s t h (.inr hne)
  · obtain rfl : (s.setDT (s.getV x)).quiet = t := by simpa [exec_ldDTX] using h
    exact absurd (by simp) hne
  · exact hx

theorem exec_dirty_writer (i : Instr) (s t : State) (h : exec i s = .next t) (hne : t.dirty ≠ s.dirty) :
    (∃ u, i = .cls u) ∨ ∃ x y n, i = .drw x y n :=
  touched_dirty s i (Bool.eq_true_of_not_eq_false fun hT => hne ((exec_changesOnly i s t h).dirty hT))

/-! ### The statements -/

/-- Settles O9: the step is the base advance and a condition that is not fatal, whose frame is the status alone. -/
theorem unknownWordOnlyAdvances : Obligations.UnknownWordOnlyAdvances := by
  unfold Obligations.UnknownWordOnlyAdvances
  rintro s w r hh hp rfl hd
  refine ⟨_, step_unknown s r hh hp hd, ?pc, ?halt, ?cond, ?info, ?seen, .of_advance _ _ _ (.raise _ _ _ _ rfl)⟩
  case pc => simp [State.raiseUnknown, Cond.fatal]
  case halt => simp [State.raiseUnknown, Cond.fatal, hh]
  case cond => simp [State.raiseUnknown]
  case info => simp [State.raiseUnknown, State.plainInfo, State.fetchWord]
  case seen => simp [State.raiseUnknown, Cond.seenBit]

/-- Settles O14: a step that runs no instruction writes none of the four, and the frame of an instruction names
`key` never, the timers and dirty only for their writers. -/
theorem timersKeysAndDirtyHaveTheirWriters : Obligations.TimersKeysAndDirtyHaveTheirWriters := by
  unfold Obligations.TimersKeysAndDirtyHaveTheirWriters
  intro s t h
  obtain hf | ⟨i, hd, he⟩ := step_changesOnly_or_exec s t h
  · obtain ⟨hDT, hST⟩ := hf.timers rfl
    exact ⟨hf.key, (absurd hDT ·), (absurd hST ·), (absurd (hf.dirty rfl) ·)⟩
  · rw [hd]
    simp only [Except.ok.injEq]
    exact ⟨(exec_changesOnly i s.advance t he).key, exec_DT_writer i s.advance t he, exec_ST_writer i s.advance t he,
      exec_dirty_writer i s.advance t he⟩

end Sys2Proof.Machine
end

section
/-! SUPPORT. Control transfer with an immediate operand (41_flow.md R75, R77, R78): how its words decode, where the two
shared operations of the family end, and the statements settled from them. -/

namespace Sys2Proof.Machine

/-! ### The words of the family (R75, R77, R78) -/

theorem decode_wordN_jp (nnn : Addr) : decode (wordN 0x1 nnn) = .ok (.jp nnn) := by
  simp [decode, fieldOp_wordN, fieldNNN_wordN]

theorem decode_wordXNN_seXNN (x : RegIdx) (nn : Byte) : decode (wordXNN 0x3 x nn) = .ok (.seXNN x nn) := by
  simp [decode, fieldOp_wordXNN, fieldX_wordXNN, fieldNN_wordXNN]

theorem decode_wordXNN_sneXNN (x : RegIdx) (nn : Byte) : decode (wordXNN 0x4 x nn) = .ok (.sneXNN x nn) := by
  simp [decode, fieldOp_wordXNN, fieldX_wordXNN, fieldNN_wordXNN]

/-! ### Where a jump and a skip end (40_cycle.md R66) -/

/-- A jump changes pc and nothing a frame compares. -/
theorem EndsAt.jumpTo (s : State) (a : Word) : EndsAt a {} s (s.jumpTo a).quiet :=
  .of_done {} s (s.jumpTo a) (.jumpTo {} s a)

/-- A skip changes pc and nothing a frame compares. -/
theorem EndsAt.skipIf (s : State) (c : Bool) : EndsAt (if c then s.pc + 2 else s.pc) {} s (s.skipIf c).quiet :=
  s.skipIf_pc c ▸ .of_done {} s (s.skipIf c) (.skipIf {} s c)

theorem exec_jp (nnn : Addr) (s : State) : exec (.jp nnn) s = .next (s.jumpTo (zextAddr nnn)).quiet := rfl

theorem exec_seXNN (x : RegIdx) (nn : Byte) (s : State) :
    exec (.seXNN x nn) s = .next (s.skipIf (s.getV x == nn)).quiet := rfl

theorem exec_sneXNN (x : RegIdx) (nn : Byte) (s : State) :
    exec (.sneXNN x nn) s = .next (s.skipIf (s.getV x != nn)).quiet := rfl

theorem toNat_zextAddr (nnn : Addr) : (zextAddr nnn).toNat = nnn.toNat :=
  BitVec.toNat_setWidth_of_le (by decide)

/-! ### The statements -/

/-- Settles O23: the target is the operand itself, since twelve bits fit in pc. -/
theorem jumpSetsPc : Obligations.JumpSetsPc := by
  unfold Obligations.JumpSetsPc
  exact ⟨decode_wordN_jp, fun nnn s => ⟨_, exec_jp nnn s, toNat_zextAddr nnn, .jumpTo s (zextAddr nnn)⟩⟩

/-- Settles O24: both are `skipIf`, 4xnn on the negated condition, so its two targets are exchanged. -/
theorem skipsOnImmediate : Obligations.SkipsOnImmediate := by
  unfold Obligations.SkipsOnImmediate
  refine ⟨fun x nn => decode_wordXNN_seXNN x.toFin nn, fun x nn => decode_wordXNN_sneXNN x.toFin nn,
    fun x nn s => ⟨⟨_, exec_seXNN x nn s, ?eq⟩, ⟨_, exec_sneXNN x nn s, ?ne⟩⟩⟩
  case eq => simpa using EndsAt.skipIf s (s.getV x == nn)
  case ne => simpa using EndsAt.skipIf s (s.getV x != nn)

end Sys2Proof.Machine
end

section
/-! SUPPORT. The register loads and the bitwise operations (42_alu.md R83 to R88): how their words decode, where an
instruction that writes a register, with or without the flag, ends, and the statements settled from them. -/

namespace Sys2Proof.Machine

/-! ### The words of the family (R83 to R88) -/

theorem decode_wordXNN_ldXNN (x : RegIdx) (nn : Byte) : decode (wordXNN 0x6 x nn) = .ok (.ldXNN x nn) := by
  simp [decode, fieldOp_wordXNN, fieldX_wordXNN, fieldNN_wordXNN]

theorem decode_wordXNN_addXNN (x : RegIdx) (nn : Byte) : decode (wordXNN 0x7 x nn) = .ok (.addXNN x nn) := by
  simp [decode, fieldOp_wordXNN, fieldX_wordXNN, fieldNN_wordXNN]

/-- A word of family 8 is read by the family's own decoder (R53). -/
theorem decode_wordXYN_family8 (x y : RegIdx) (n : Nibble) :
    decode (wordXYN 0x8#4 x y n) = decode8 (wordXYN 0x8#4 x y n) := by
  simp [decode, fieldOp_wordXYN]

theorem decode_wordXYN_ldXY (x y : RegIdx) : decode (wordXYN 0x8#4 x y 0x0#4) = .ok (.ldXY x y) := by
  simp [decode_wordXYN_family8, decode8, fieldLo_wordXYN, fieldX_wordXYN, fieldY_wordXYN]

theorem decode_wordXYN_orXY (x y : RegIdx) : decode (wordXYN 0x8#4 x y 0x1#4) = .ok (.orXY x y) := by
  simp [decode_wordXYN_family8, decode8, fieldLo_wordXYN, fieldX_wordXYN, fieldY_wordXYN]

theorem decode_wordXYN_andXY (x y : RegIdx) : decode (wordXYN 0x8#4 x y 0x2#4) = .ok (.andXY x y) := by
  simp [decode_wordXYN_family8, decode8, fieldLo_wordXYN, fieldX_wordXYN, fieldY_wordXYN]

theorem decode_wordXYN_xorXY (x y : RegIdx) : decode (wordXYN 0x8#4 x y 0x3#4) = .ok (.xorXY x y) := by
  simp [decode_wordXYN_family8, decode8, fieldLo_wordXYN, fieldX_wordXYN, fieldY_wordXYN]

/-! ### Where a register write ends (40_cycle.md R64, R67) -/

theorem State.getV_setV_same (s : State) (x : RegIdx) (b : Byte) : (s.setV x b).getV x = b := by simp

/-- A register write leaves pc at p + 2 and changes its own register alone. -/
theorem EndsAt.setV (s : State) (x : RegIdx) (b : Byte) : EndsAt s.pc { regs := [x] } s (s.setV x b).quiet :=
  .of_done _ s (s.setV x b) (.setV _ s x b (by simp))

/-- A flagged write leaves pc at p + 2 and changes its destination and VF alone. -/
theorem EndsAt.setFlagged (s : State) (x : RegIdx) (p : Byte × Byte) :
    EndsAt s.pc { regs := [x, VF] } s (s.setFlagged x p).quiet :=
  .of_done _ s (s.setFlagged x p) (.setFlagged _ s x p (by simp) (by simp))

/-- R86 to R88: the result stays in Vx unless the flag, written after it, takes its place. -/
theorem State.getV_logicClear_dest (s : State) (x : RegIdx) (r : Byte) :
    (s.setFlagged x (logicClear r)).getV x = if x = VF then 0 else r := by
  simp [logicClear]

/-- R86 to R88: VF is cleared whatever the result. -/
theorem State.getV_logicClear_flag (s : State) (x : RegIdx) (r : Byte) :
    (s.setFlagged x (logicClear r)).getV VF = 0 := by
  simp [logicClear]

theorem exec_ldXNN (x : RegIdx) (nn : Byte) (s : State) : exec (.ldXNN x nn) s = .next (s.setV x nn).quiet := rfl

theorem exec_addXNN (x : RegIdx) (nn : Byte) (s : State) :
    exec (.addXNN x nn) s = .next (s.setV x (s.getV x + nn)).quiet := rfl

theorem exec_ldXY (x y : RegIdx) (s : State) : exec (.ldXY x y) s = .next (s.setV x (s.getV y)).quiet := rfl

theorem exec_orXY (x y : RegIdx) (s : State) :
    exec (.orXY x y) s = .next (s.setFlagged x (logicClear (s.getV x ||| s.getV y))).quiet := rfl

theorem exec_andXY (x y : RegIdx) (s : State) :
    exec (.andXY x y) s = .next (s.setFlagged x (logicClear (s.getV x &&& s.getV y))).quiet := rfl

theorem exec_xorXY (x y : RegIdx) (s : State) :
    exec (.xorXY x y) s = .next (s.setFlagged x (logicClear (s.getV x ^^^ s.getV y))).quiet := rfl

/-- What one bitwise operation has to answer, from its equation: only the result byte `r` tells them apart. -/
theorem exec_bitwise (i : Instr) (x : RegIdx) (r : Byte) (s : State)
    (he : exec i s = .next (s.setFlagged x (logicClear r)).quiet) :
    ∃ t, exec i s = .next t ∧ t.getV x = (if x = VF then 0 else r) ∧ t.getV VF = 0 ∧
      EndsAt s.pc { regs := [x, VF] } s t :=
  ⟨_, he, s.getV_logicClear_dest x r, s.getV_logicClear_flag x r, .setFlagged s x (logicClear r)⟩

/-! ### The statements -/

/-- Settles O32: each is one register write, and the sum of two bytes is their sum modulo 256. -/
theorem loadsAndAddImmediateWriteOnlyVx : Obligations.LoadsAndAddImmediateWriteOnlyVx := by
  unfold Obligations.LoadsAndAddImmediateWriteOnlyVx
  refine ⟨fun x nn => decode_wordXNN_ldXNN x.toFin nn, fun x nn => decode_wordXNN_addXNN x.toFin nn,
    fun x y => decode_wordXYN_ldXY x.toFin y.toFin, fun x y nn s => ⟨?load, ?add, ?copy⟩⟩
  case load => exact ⟨_, exec_ldXNN x nn s, s.getV_setV_same x nn, .setV s x nn⟩
  case add =>
    have hsum : ((s.setV x (s.getV x + nn)).getV x).toNat = ((s.getV x).toNat + nn.toNat) % 256 := by
      rw [State.getV_setV_same, BitVec.toNat_add]
    exact ⟨_, exec_addXNN x nn s, hsum, .setV s x (s.getV x + nn)⟩
  case copy => exact ⟨_, exec_ldXY x y s, s.getV_setV_same x (s.getV y), .setV s x (s.getV y)⟩

/-- Settles O33: the three differ in the result byte alone; with x = VF the flag 0 is what stays. -/
theorem bitwiseOperationsClearFlag : Obligations.BitwiseOperationsClearFlag := by
  unfold Obligations.BitwiseOperationsClearFlag
  exact ⟨fun x y => decode_wordXYN_orXY x.toFin y.toFin, fun x y => decode_wordXYN_andXY x.toFin y.toFin,
    fun x y => decode_wordXYN_xorXY x.toFin y.toFin, fun x y s =>
      ⟨exec_bitwise _ x _ s (exec_orXY x y s), exec_bitwise _ x _ s (exec_andXY x y s),
        exec_bitwise _ x _ s (exec_xorXY x y s)⟩⟩

end Sys2Proof.Machine
end

section
/-! SUPPORT. The writes of the index register (43_index_memory.md R96, R97): how their words decode, where an
instruction that writes I ends, and the statement settled from them. -/

namespace Sys2Proof.Machine

/-! ### The words of the family (R96, R97) -/

theorem decode_wordN_ldI (nnn : Addr) : decode (wordN 0xA nnn) = .ok (.ldI nnn) := by
  simp [decode, fieldOp_wordN, fieldNNN_wordN]

/-- A word of family F is read by the family's own decoder (R53). -/
theorem decode_wordXNN_familyF (x : RegIdx) (nn : Byte) :
    decode (wordXNN 0xF#4 x nn) = decodeF (wordXNN 0xF#4 x nn) := by
  simp [decode, fieldOp_wordXNN]

theorem decode_wordXNN_addIX (x : RegIdx) : decode (wordXNN 0xF#4 x 0x1E#8) = .ok (.addIX x) := by
  simp [decode_wordXNN_familyF, decodeF, fieldX_wordXNN, fieldNN_wordXNN]

/-! ### Where a write of I ends (40_cycle.md R64, R67) -/

/-- A write of I leaves pc at p + 2 and changes I alone, so no register and no flag. -/
theorem EndsAt.setI (s : State) (v : Word) : EndsAt s.pc { I := true } s (s.setI v).quiet :=
  .of_done _ s (s.setI v) (.setI _ s v rfl)

theorem exec_ldI (nnn : Addr) (s : State) : exec (.ldI nnn) s = .next (s.setI (zextAddr nnn)).quiet := rfl

theorem exec_addIX (x : RegIdx) (s : State) :
    exec (.addIX x) s = .next (s.setI (s.I + zextByte (s.getV x))).quiet := rfl

theorem toNat_zextByte (b : Byte) : (zextByte b).toNat = b.toNat :=
  BitVec.toNat_setWidth_of_le (by decide)

/-! ### The statement -/

/-- Settles O39: both are one write of I; the sum wraps at 2^16 because the byte is extended before it is added. -/
theorem indexIsSetAndAddedTo : Obligations.IndexIsSetAndAddedTo := by
  unfold Obligations.IndexIsSetAndAddedTo
  refine ⟨decode_wordN_ldI, fun x => decode_wordXNN_addIX x.toFin, fun nnn x s => ⟨?set, ?add⟩⟩
  case set => exact ⟨_, exec_ldI nnn s, toNat_zextAddr nnn, .setI s (zextAddr nnn)⟩
  case add =>
    have hsum : (s.I + zextByte (s.getV x)).toNat = (s.I.toNat + (s.getV x).toNat) % 2 ^ 16 := by
      rw [BitVec.toNat_add, toNat_zextByte]
    exact ⟨_, exec_addIX x s, hsum, .setI s (s.I + zextByte (s.getV x))⟩

end Sys2Proof.Machine
end

section
/-! SUPPORT. Clearing the display (44_display.md R103): how its word decodes, where an instruction that shows a new
display ends, and the statement settled from them. -/

namespace Sys2Proof.Machine

/-- The bits 11 to 8, which the decoder does not examine, are the operand itself (R56). -/
theorem decode_wordZ_cls (u : Nibble) : decode (wordZ u 0xE0#8) = .ok (.cls u) := by
  simp [decode, fieldOp_wordZ, decode0, fieldNN_wordZ, fieldHi_wordZ]

theorem ChangesOnly.show (T : Touched) (s : State) (d : Display) (hdisp : T.disp = true) (hdirty : T.dirty = true) :
    ChangesOnly T s (s.show d) := by
  constructor <;> simp [hdisp, hdirty]

/-- Showing a new display leaves pc at p + 2 and changes the cells and dirty alone, so no register and no flag. -/
theorem EndsAt.show (s : State) (d : Display) : EndsAt s.pc { disp := true, dirty := true } s (s.show d).quiet :=
  .of_done _ s (s.show d) (.show _ s d rfl rfl)

theorem exec_cls (u : Nibble) (s : State) : exec (.cls u) s = .next (s.show Display.clear).quiet := rfl

/-! ### The statement -/

/-- Settles O47: the display shown is the clear one, whatever was there before, and showing it marks it dirty. -/
theorem clearDarkensEveryCell : Obligations.ClearDarkensEveryCell := by
  unfold Obligations.ClearDarkensEveryCell
  refine ⟨decode_wordZ_cls, fun u s => ⟨_, exec_cls u s, ?cells, ?dirty, .show s Display.clear⟩⟩
  case cells => exact fun y x => Display.cell_clear y x
  case dirty => exact s.show_dirty Display.clear

end Sys2Proof.Machine
end

section
/-! SUPPORT. The read and the write of the delay timer (45_keypad_timers.md R110, R112): how their words decode, where an
instruction that writes DT ends, and the statement settled from them. -/

namespace Sys2Proof.Machine

theorem decode_wordXNN_ldXDT (x : RegIdx) : decode (wordXNN 0xF#4 x 0x07#8) = .ok (.ldXDT x) := by
  simp [decode_wordXNN_familyF, decodeF, fieldX_wordXNN, fieldNN_wordXNN]

theorem decode_wordXNN_ldDTX (x : RegIdx) : decode (wordXNN 0xF#4 x 0x15#8) = .ok (.ldDTX x) := by
  simp [decode_wordXNN_familyF, decodeF, fieldX_wordXNN, fieldNN_wordXNN]

/-! ### Where a write of DT ends (40_cycle.md R64, R67) -/

theorem ChangesOnly.setDT (T : Touched) (s : State) (b : Byte) (h : T.timers = true) : ChangesOnly T s (s.setDT b) := by
  constructor <;> simp [h]

/-- A write of DT leaves pc at p + 2 and changes the timers alone, so no register and no flag. -/
theorem EndsAt.setDT (s : State) (b : Byte) : EndsAt s.pc { timers := true } s (s.setDT b).quiet :=
  .of_done _ s (s.setDT b) (.setDT _ s b rfl)

theorem exec_ldXDT (x : RegIdx) (s : State) : exec (.ldXDT x) s = .next (s.setV x s.DT).quiet := rfl

/-! ### The statement -/

/-- Settles O51: the read is one register write, the write one write of DT, which the frame of the timers allows and
which keeps ST. -/
theorem delayTimerIsReadAndWritten : Obligations.DelayTimerIsReadAndWritten := by
  unfold Obligations.DelayTimerIsReadAndWritten
  refine ⟨fun x => decode_wordXNN_ldXDT x.toFin, fun x => decode_wordXNN_ldDTX x.toFin, fun x s => ⟨?read, ?write⟩⟩
  case read => exact ⟨_, exec_ldXDT x s, s.getV_setV_same x s.DT, .setV s x s.DT⟩
  case write =>
    exact ⟨_, exec_ldDTX x s, s.setDT_DT (s.getV x), s.setDT_ST (s.getV x), .setDT s (s.getV x)⟩

end Sys2Proof.Machine
end

section
/-! SUPPORT. The tick (60_exceptions.md R125): what one count down does to a timer as a natural number, what the verb
does to the two timers, and the statement settled from them. -/

namespace Sys2Proof.Machine

/-- The model's test for zero is the truncation of the natural subtraction. -/
theorem toNat_countDown (t : Byte) : (countDown t).toNat = t.toNat - 1 := by
  unfold countDown
  split
  case isTrue h => simp [h]
  case isFalse h => bv_omega

/-- The count down as R125 words it, by the case of a timer above zero. -/
theorem toNat_countDown_ite (t : Byte) : (countDown t).toNat = if 0 < t.toNat then t.toNat - 1 else 0 := by
  rw [toNat_countDown]
  split <;> omega

/-- A count down reaches zero from above only at 1. -/
theorem countDown_reaches_zero_iff (t : Byte) : 0 < t.toNat ∧ (countDown t).toNat = 0 ↔ t = 1 := by
  rw [toNat_countDown]
  bv_omega

@[simp] theorem State.tick_DT (s : State) : s.tick.1.DT = countDown s.DT := rfl

@[simp] theorem State.tick_ST (s : State) : s.tick.1.ST = countDown s.ST := rfl

theorem State.tick_frame (s : State) : s.tick.1 = { s with DT := s.tick.1.DT, ST := s.tick.1.ST } := rfl

theorem State.tick_stopTone (s : State) : s.tick.2 = true ↔ s.ST = 1 := decide_eq_true_iff

theorem apply_tick (s : State) : s.apply .tick = .next (s.tick.1, .stopTone s.tick.2) := rfl

/-! ### The statement -/

/-- Settles O55: each timer is one count down, and the stop tone's test for 1 is exactly the count down that reaches zero
from above. -/
theorem tickCountsDown : Obligations.TickCountsDown := by
  unfold Obligations.TickCountsDown
  refine fun s => ⟨apply_tick s, s.tick_frame, ?delay, ?sound, ?tone⟩
  case delay => rw [State.tick_DT, toNat_countDown_ite]
  case sound => rw [State.tick_ST, toNat_countDown_ite]
  case tone => rw [State.tick_ST, State.tick_stopTone, countDown_reaches_zero_iff]

end Sys2Proof.Machine
end

section
/-! SUPPORT. The load (70_reset_and_hazards.md R139, R140): what the verb answers for an image that is too long and for one
that fits, and the statement settled from them. -/

namespace Sys2Proof.Machine

theorem State.load_tooLarge (s : State) (bytes : List Byte) (h : romMax < bytes.length) :
    s.load bytes = (s, .romTooLarge) :=
  if_pos h

theorem State.load_ok (s : State) (bytes : List Byte) (h : bytes.length ≤ romMax) :
    s.load bytes = (s.store 0x200 bytes, .ok) :=
  if_neg (not_lt.2 h)

theorem State.store_frame (s : State) (a : Nat) (bs : List Byte) :
    s.store a bs = { s with mem := (s.store a bs).mem } := rfl

theorem apply_load (s : State) (bytes : List Byte) :
    s.apply (.load bytes) = .next ((s.load bytes).1, .loaded (s.load bytes).2) := rfl

/-! ### The statement -/

/-- Settles O58: an accepted load is one store at 0x200, so its bytes and the bytes around them are those of
`writeBytes`. -/
theorem loadAcceptsUpToRomMax : Obligations.LoadAcceptsUpToRomMax := by
  unfold Obligations.LoadAcceptsUpToRomMax
  refine fun s bytes => ⟨fun hlong => ?refused, fun hfits =>
    ⟨s.store 0x200 bytes, ?accepted, s.store_frame 0x200 bytes, fun k hk => ?inside, fun a ha => ?outside⟩⟩
  case refused => rw [apply_load, s.load_tooLarge bytes hlong]
  case accepted => rw [apply_load, s.load_ok bytes hfits]
  case inside => exact Memory.read_writeBytes_inside s.mem 0x200 bytes k hk
  case outside => exact Memory.read_writeBytes_outside s.mem 0x200 bytes a ha

end Sys2Proof.Machine
end

section
/-! SUPPORT. The decoder and the encoder are inverse (30_encoding.md R53, R55, R59): how the word of every instruction
decodes, that a decoded word is the word of its instruction, and which words are UNKNOWN. -/

namespace Sys2Proof

open Sys2Proof.Machine

/-! ### The words of the instructions that no section before reads back -/

/-- A word of family 0 is read by the family's own decoder (R53). -/
theorem decode_family0 (w : Word) (h : fieldOp w = 0) : decode w = .ok (decode0 w) := by
  simp [decode, h]

/-- A word of family E is read by the family's own decoder (R53). -/
theorem decode_familyE (w : Word) (h : fieldOp w = 0xE#4) : decode w = decodeE w := by
  simp [decode, h]

theorem decode_wordN_sys (nnn : Addr) (hcls : nnn.extractLsb' 0 8 ≠ 0xE0#8) (hret : nnn.extractLsb' 0 8 ≠ 0xEE#8) :
    decode (wordN 0x0#4 nnn) = .ok (.sys nnn) := by
  simp [decode_family0, fieldOp_wordN, decode0, fieldNN_wordN, fieldNNN_wordN, hcls, hret]

theorem decode_wordZ_ret (u : Nibble) : decode (wordZ u 0xEE#8) = .ok (.ret u) := by
  simp [decode_family0, fieldOp_wordZ, decode0, fieldNN_wordZ, fieldHi_wordZ]

theorem decode_wordN_call (nnn : Addr) : decode (wordN 0x2#4 nnn) = .ok (.call nnn) := by
  simp [decode, fieldOp_wordN, fieldNNN_wordN]

theorem decode_wordN_jpV0 (nnn : Addr) : decode (wordN 0xB#4 nnn) = .ok (.jpV0 nnn) := by
  simp [decode, fieldOp_wordN, fieldNNN_wordN]

theorem decode_wordXYN_seXY (x y : RegIdx) (u : Nibble) : decode (wordXYN 0x5#4 x y u) = .ok (.seXY x y u) := by
  simp [decode, fieldOp_wordXYN, fieldX_wordXYN, fieldY_wordXYN, fieldLo_wordXYN]

theorem decode_wordXYN_sneXY (x y : RegIdx) (u : Nibble) : decode (wordXYN 0x9#4 x y u) = .ok (.sneXY x y u) := by
  simp [decode, fieldOp_wordXYN, fieldX_wordXYN, fieldY_wordXYN, fieldLo_wordXYN]

theorem decode_wordXYN_drw (x y n : Fin 16) : decode (wordXYN 0xD#4 x y (nib n)) = .ok (.drw x y n) := by
  simp [decode, fieldOp_wordXYN, fieldX_wordXYN, fieldY_wordXYN, fieldN_wordXYN]

theorem decode_wordXNN_rnd (x : RegIdx) (nn : Byte) : decode (wordXNN 0xC#4 x nn) = .ok (.rnd x nn) := by
  simp [decode, fieldOp_wordXNN, fieldX_wordXNN, fieldNN_wordXNN]

theorem decode_wordXYN_addXY (x y : RegIdx) : decode (wordXYN 0x8#4 x y 0x4#4) = .ok (.addXY x y) := by
  simp [decode_wordXYN_family8, decode8, fieldLo_wordXYN, fieldX_wordXYN, fieldY_wordXYN]

theorem decode_wordXYN_sub (x y : RegIdx) : decode (wordXYN 0x8#4 x y 0x5#4) = .ok (.sub x y) := by
  simp [decode_wordXYN_family8, decode8, fieldLo_wordXYN, fieldX_wordXYN, fieldY_wordXYN]

theorem decode_wordXYN_shr (x y : RegIdx) : decode (wordXYN 0x8#4 x y 0x6#4) = .ok (.shr x y) := by
  simp [decode_wordXYN_family8, decode8, fieldLo_wordXYN, fieldX_wordXYN, fieldY_wordXYN]

theorem decode_wordXYN_subn (x y : RegIdx) : decode (wordXYN 0x8#4 x y 0x7#4) = .ok (.subn x y) := by
  simp [decode_wordXYN_family8, decode8, fieldLo_wordXYN, fieldX_wordXYN, fieldY_wordXYN]

theorem decode_wordXYN_shl (x y : RegIdx) : decode (wordXYN 0x8#4 x y 0xE#4) = .ok (.shl x y) := by
  simp [decode_wordXYN_family8, decode8, fieldLo_wordXYN, fieldX_wordXYN, fieldY_wordXYN]

theorem decode_wordXNN_skp (x : RegIdx) : decode (wordXNN 0xE#4 x 0x9E#8) = .ok (.skp x) := by
  simp [decode_familyE, fieldOp_wordXNN, decodeE, fieldX_wordXNN, fieldNN_wordXNN]

theorem decode_wordXNN_sknp (x : RegIdx) : decode (wordXNN 0xE#4 x 0xA1#8) = .ok (.sknp x) := by
  simp [decode_familyE, fieldOp_wordXNN, decodeE, fieldX_wordXNN, fieldNN_wordXNN]

theorem decode_wordXNN_ldXK (x : RegIdx) : decode (wordXNN 0xF#4 x 0x0A#8) = .ok (.ldXK x) := by
  simp [decode_wordXNN_familyF, decodeF, fieldX_wordXNN, fieldNN_wordXNN]

theorem decode_wordXNN_ldSTX (x : RegIdx) : decode (wordXNN 0xF#4 x 0x18#8) = .ok (.ldSTX x) := by
  simp [decode_wordXNN_familyF, decodeF, fieldX_wordXNN, fieldNN_wordXNN]

theorem decode_wordXNN_ldFX (x : RegIdx) : decode (wordXNN 0xF#4 x 0x29#8) = .ok (.ldFX x) := by
  simp [decode_wordXNN_familyF, decodeF, fieldX_wordXNN, fieldNN_wordXNN]

theorem decode_wordXNN_ldBX (x : RegIdx) : decode (wordXNN 0xF#4 x 0x33#8) = .ok (.ldBX x) := by
  simp [decode_wordXNN_familyF, decodeF, fieldX_wordXNN, fieldNN_wordXNN]

theorem decode_wordXNN_ldMemX (x : RegIdx) : decode (wordXNN 0xF#4 x 0x55#8) = .ok (.ldMemX x) := by
  simp [decode_wordXNN_familyF, decodeF, fieldX_wordXNN, fieldNN_wordXNN]

theorem decode_wordXNN_ldXMem (x : RegIdx) : decode (wordXNN 0xF#4 x 0x65#8) = .ok (.ldXMem x) := by
  simp [decode_wordXNN_familyF, decodeF, fieldX_wordXNN, fieldNN_wordXNN]

/-! ### Decoding an encoded instruction -/

/-- Settles O2: each constructor's word is read back by the lemma of that word; only SYS asks for `wf`, which keeps its
low byte off the two that its family gives to CLS and RET. -/
theorem encodeThenDecodeGivesInstructionBack : Obligations.EncodeThenDecodeGivesInstructionBack := by
  unfold Obligations.EncodeThenDecodeGivesInstructionBack
  intro i hwf
  cases i with
  | sys nnn =>
    obtain ⟨hcls, hret⟩ : nnn.extractLsb' 0 8 ≠ 0xE0#8 ∧ nnn.extractLsb' 0 8 ≠ 0xEE#8 := by
      simpa [Instr.wf] using hwf
    exact decode_wordN_sys nnn hcls hret
  | cls u => exact decode_wordZ_cls u
  | ret u => exact decode_wordZ_ret u
  | jp nnn => exact decode_wordN_jp nnn
  | call nnn => exact decode_wordN_call nnn
  | seXNN x nn => exact decode_wordXNN_seXNN x nn
  | sneXNN x nn => exact decode_wordXNN_sneXNN x nn
  | seXY x y u => exact decode_wordXYN_seXY x y u
  | ldXNN x nn => exact decode_wordXNN_ldXNN x nn
  | addXNN x nn => exact decode_wordXNN_addXNN x nn
  | ldXY x y => exact decode_wordXYN_ldXY x y
  | orXY x y => exact decode_wordXYN_orXY x y
  | andXY x y => exact decode_wordXYN_andXY x y
  | xorXY x y => exact decode_wordXYN_xorXY x y
  | addXY x y => exact decode_wordXYN_addXY x y
  | sub x y => exact decode_wordXYN_sub x y
  | shr x y => exact decode_wordXYN_shr x y
  | subn x y => exact decode_wordXYN_subn x y
  | shl x y => exact decode_wordXYN_shl x y
  | sneXY x y u => exact decode_wordXYN_sneXY x y u
  | ldI nnn => exact decode_wordN_ldI nnn
  | jpV0 nnn => exact decode_wordN_jpV0 nnn
  | rnd x nn => exact decode_wordXNN_rnd x nn
  | drw x y n => exact decode_wordXYN_drw x y n
  | skp x => exact decode_wordXNN_skp x
  | sknp x => exact decode_wordXNN_sknp x
  | ldXDT x => exact decode_wordXNN_ldXDT x
  | ldXK x => exact decode_wordXNN_ldXK x
  | ldDTX x => exact decode_wordXNN_ldDTX x
  | ldSTX x => exact decode_wordXNN_ldSTX x
  | addIX x => exact decode_wordXNN_addIX x
  | ldFX x => exact decode_wordXNN_ldFX x
  | ldBX x => exact decode_wordXNN_ldBX x
  | ldMemX x => exact decode_wordXNN_ldMemX x
  | ldXMem x => exact decode_wordXNN_ldXMem x

/-- The words of the SYS operands that `wf` shuts out are CLS and RET words, so every encoded instruction decodes. -/
theorem decode_encode_cases (i : Instr) :
    decode (encode i) = .ok i ∨
      ∃ nnn u, i = .sys nnn ∧ (decode (encode i) = .ok (.cls u) ∨ decode (encode i) = .ok (.ret u)) := by
  cases hwf : i.wf with
  | true => exact .inl (encodeThenDecodeGivesInstructionBack i hwf)
  | false =>
    cases i with
    | sys nnn =>
      refine .inr ⟨nnn, fieldHi (wordN 0 nnn), rfl, ?_⟩
      have hlow : nnn.extractLsb' 0 8 = 0xE0#8 ∨ nnn.extractLsb' 0 8 = 0xEE#8 :=
        or_iff_not_imp_left.2 (by simpa [Instr.wf] using hwf)
      rw [encode, decode_family0 _ (fieldOp_wordN 0 nnn), decode0, fieldNN_wordN]
      obtain h | h := hlow <;> simp [h]
    | _ => simp [Instr.wf] at hwf

/-! ### A word is the one its fields write in any of the formats (R50) -/

theorem wordN_eq_of_fields (w : Word) (op : Nibble) (hop : fieldOp w = op) : wordN op (fieldNNN w) = w :=
  hop ▸ word_N w

theorem wordXNN_eq_of_fields (w : Word) (op : Nibble) (hop : fieldOp w = op) :
    wordXNN op (fieldX w) (fieldNN w) = w :=
  hop ▸ word_XNN w

theorem wordXNN_eq_of_low (w : Word) (op : Nibble) (nn : Byte) (hop : fieldOp w = op) (hnn : fieldNN w = nn) :
    wordXNN op (fieldX w) nn = w :=
  hnn ▸ wordXNN_eq_of_fields w op hop

theorem wordXYN_eq_of_fields (w : Word) (op : Nibble) (hop : fieldOp w = op) :
    wordXYN op (fieldX w) (fieldY w) (fieldLo w) = w :=
  hop ▸ word_XYN w

theorem wordXYN_eq_of_low (w : Word) (op n : Nibble) (hop : fieldOp w = op) (hlo : fieldLo w = n) :
    wordXYN op (fieldX w) (fieldY w) n = w :=
  hlo ▸ wordXYN_eq_of_fields w op hop

theorem wordZ_eq_of_low (w : Word) (nn : Byte) (hop : fieldOp w = 0) (hnn : fieldNN w = nn) :
    wordZ (fieldHi w) nn = w :=
  wordXNN_eq_of_low w 0 nn hop hnn

theorem extractLsb'_fieldNNN (w : Word) : (fieldNNN w).extractLsb' 0 8 = fieldNN w := by
  rw [← fieldNN_wordN (fieldOp w), word_N]

/-! ### A decoded word is the word of its instruction -/

theorem decode0_sound (w : Word) (hop : fieldOp w = 0) : (decode0 w).wf = true ∧ encode (decode0 w) = w := by
  unfold decode0
  split
  case isTrue hcls => exact ⟨rfl, wordZ_eq_of_low w _ hop hcls⟩
  case isFalse hcls =>
    split
    case isTrue hret => exact ⟨rfl, wordZ_eq_of_low w _ hop hret⟩
    case isFalse hret => exact ⟨by simp [Instr.wf, extractLsb'_fieldNNN, hcls, hret], wordN_eq_of_fields w _ hop⟩

theorem decode8_sound (w : Word) (i : Instr) (hop : fieldOp w = 0x8#4) (h : decode8 w = .ok i) :
    i.wf = true ∧ encode i = w := by
  unfold decode8 at h
  split at h <;> cases h <;> exact ⟨rfl, wordXYN_eq_of_low w _ _ hop ‹_›⟩

theorem decodeE_sound (w : Word) (i : Instr) (hop : fieldOp w = 0xE#4) (h : decodeE w = .ok i) :
    i.wf = true ∧ encode i = w := by
  unfold decodeE at h
  split_ifs at h <;> cases h <;> exact ⟨rfl, wordXNN_eq_of_low w _ _ hop ‹_›⟩

theorem decodeF_sound (w : Word) (i : Instr) (hop : fieldOp w = 0xF#4) (h : decodeF w = .ok i) :
    i.wf = true ∧ encode i = w := by
  unfold decodeF at h
  split_ifs at h <;> cases h <;> exact ⟨rfl, wordXNN_eq_of_low w _ _ hop ‹_›⟩

/-- Settles O3: a line of the decoder fixes the fields it tests and hands on the others, and a word is made of its
fields. -/
theorem decodedWordIsItsOwnEncoding : Obligations.DecodedWordIsItsOwnEncoding := by
  unfold Obligations.DecodedWordIsItsOwnEncoding
  intro w i h
  unfold decode at h
  split at h
  case h_1 hop => cases h; exact decode0_sound w hop
  case h_9 hop => exact decode8_sound w i hop h
  case h_15 hop => exact decodeE_sound w i hop h
  case h_16 hop => exact decodeF_sound w i hop h
  case h_2 hop | h_3 hop | h_11 hop | h_12 hop => cases h; exact ⟨rfl, wordN_eq_of_fields w _ hop⟩
  case h_4 hop | h_5 hop | h_7 hop | h_8 hop | h_13 hop => cases h; exact ⟨rfl, wordXNN_eq_of_fields w _ hop⟩
  case h_6 hop | h_10 hop | h_14 hop => cases h; exact ⟨rfl, wordXYN_eq_of_fields w _ hop⟩
  case h_17 => cases h

/-! ### The UNKNOWN words (R55) -/

theorem nibble_mem (n : Nibble) : n ∈ [0x0#4, 0x1#4, 0x2#4, 0x3#4, 0x4#4, 0x5#4, 0x6#4, 0x7#4, 0x8#4, 0x9#4, 0xA#4, 0xB#4,
    0xC#4, 0xD#4, 0xE#4, 0xF#4] := by
  revert n; decide

/-- The four low bits that family 8 gives no instruction. -/
theorem decode8_unknown_iff (w : Word) : decode8 w = .error (.unknownOpcode w) ↔
    fieldLo w ∈ [0x8#4, 0x9#4, 0xA#4, 0xB#4, 0xC#4, 0xD#4, 0xF#4] := by
  unfold decode8
  generalize fieldLo w = n
  split
  case h_10 => simp only [true_iff]; revert n; decide
  all_goals simp

theorem decodeE_unknown_iff (w : Word) :
    decodeE w = .error (.unknownOpcode w) ↔ fieldNN w ∉ [0x9E#8, 0xA1#8] := by
  unfold decodeE
  split_ifs <;> simp_all

theorem decodeF_unknown_iff (w : Word) : decodeF w = .error (.unknownOpcode w) ↔
    fieldNN w ∉ [0x07#8, 0x0A#8, 0x15#8, 0x18#8, 0x1E#8, 0x29#8, 0x33#8, 0x55#8, 0x65#8] := by
  unfold decodeF
  split_ifs <;> simp_all

/-- Only the families 8, E and F have UNKNOWN words, each by the field its decoder splits on. -/
theorem decode_unknown_iff (w : Word) : decode w = .error (.unknownOpcode w) ↔
    (fieldOp w = 0x8#4 ∧ fieldLo w ∈ [0x8#4, 0x9#4, 0xA#4, 0xB#4, 0xC#4, 0xD#4, 0xF#4]) ∨
    (fieldOp w = 0xE#4 ∧ fieldNN w ∉ [0x9E#8, 0xA1#8]) ∨
    (fieldOp w = 0xF#4 ∧
      fieldNN w ∉ [0x07#8, 0x0A#8, 0x15#8, 0x18#8, 0x1E#8, 0x29#8, 0x33#8, 0x55#8, 0x65#8]) := by
  unfold decode
  split
  case h_9 hop => rw [decode8_unknown_iff]; simp [hop]
  case h_15 hop => rw [decodeE_unknown_iff]; simp [hop]
  case h_16 hop => rw [decodeF_unknown_iff]; simp [hop]
  case h_17 => have := nibble_mem (fieldOp w); simp_all
  all_goals next hop => simp [hop]

theorem exists_wordXYN_iff (w : Word) (op : Nibble) (P : Nibble → Prop) :
    (∃ x y S : Nibble, w = op ++ x ++ y ++ S ∧ P S) ↔ fieldOp w = op ∧ P (fieldLo w) := by
  constructor
  · rintro ⟨x, y, S, rfl, hS⟩
    exact ⟨fieldOp_wordXYN op x.toFin y.toFin S, (fieldLo_wordXYN op x.toFin y.toFin S).symm ▸ hS⟩
  · rintro ⟨hop, hP⟩
    exact ⟨fieldHi w, nib (fieldY w), fieldLo w, (wordXYN_eq_of_fields w op hop).symm, hP⟩

theorem exists_wordXNN_iff (w : Word) (op : Nibble) (P : Byte → Prop) :
    (∃ (x : Nibble) (kk : Byte), w = op ++ x ++ kk ∧ P kk) ↔ fieldOp w = op ∧ P (fieldNN w) := by
  constructor
  · rintro ⟨x, kk, rfl, hkk⟩
    exact ⟨fieldOp_wordXNN op x.toFin kk, (fieldNN_wordXNN op x.toFin kk).symm ▸ hkk⟩
  · rintro ⟨hop, hP⟩
    exact ⟨fieldHi w, fieldNN w, (wordXNN_eq_of_fields w op hop).symm, hP⟩

/-- Settles O4: the fields that the families 8, E and F are split on, said of the word written out. -/
theorem unknownWordsAreExactlyThese : Obligations.UnknownWordsAreExactlyThese := by
  unfold Obligations.UnknownWordsAreExactlyThese
  intro w
  rw [decode_unknown_iff, exists_wordXYN_iff w 0x8#4 (· ∈ [0x8#4, 0x9#4, 0xA#4, 0xB#4, 0xC#4, 0xD#4, 0xF#4]),
    exists_wordXNN_iff w 0xE#4 (· ∉ [0x9E#8, 0xA1#8]),
    exists_wordXNN_iff w 0xF#4 (· ∉ [0x07#8, 0x0A#8, 0x15#8, 0x18#8, 0x1E#8, 0x29#8, 0x33#8, 0x55#8, 0x65#8])]

/-! ### The opcode table (R59) -/

theorem fieldOp_of_hits_F000 (w : Word) (op : Nibble) (h : TableRow.hits ⟨wordN op 0, 0xF000⟩ w = true) :
    fieldOp w = op := by
  have hm : w &&& 0xF000#16 = wordN op 0 := by simpa [TableRow.hits] using h
  rw [← word_N w, mask_F000_wordN] at hm
  simpa only [fieldOp_wordN] using congrArg fieldOp hm

theorem fields_of_hits_F0FF (w : Word) (op : Nibble) (nn : Byte)
    (h : TableRow.hits ⟨wordXNN op 0 nn, 0xF0FF⟩ w = true) : fieldOp w = op ∧ fieldNN w = nn := by
  have hm : w &&& 0xF0FF#16 = wordXNN op 0 nn := by simpa [TableRow.hits] using h
  rw [← word_XNN w, mask_F0FF_wordXNN] at hm
  constructor
  · simpa only [fieldOp_wordXNN] using congrArg fieldOp hm
  · simpa only [fieldNN_wordXNN] using congrArg fieldNN hm

theorem fields_of_hits_F00F (w : Word) (op n : Nibble)
    (h : TableRow.hits ⟨wordXYN op 0 0 n, 0xF00F⟩ w = true) : fieldOp w = op ∧ fieldLo w = n := by
  have hm : w &&& 0xF00F#16 = wordXYN op 0 0 n := by simpa [TableRow.hits] using h
  rw [← word_XYN w, mask_F00F_wordXYN] at hm
  constructor
  · simpa only [fieldOp_wordXYN] using congrArg fieldOp hm
  · simpa only [fieldLo_wordXYN] using congrArg fieldLo hm

theorem wordXNN_of_hits_F0FF (w : Word) (op : Nibble) (nn : Byte)
    (h : TableRow.hits ⟨wordXNN op 0 nn, 0xF0FF⟩ w = true) : wordXNN op (fieldX w) nn = w :=
  have hf := fields_of_hits_F0FF w op nn h
  wordXNN_eq_of_low w op nn hf.1 hf.2

theorem wordXYN_of_hits_F00F (w : Word) (op n : Nibble)
    (h : TableRow.hits ⟨wordXYN op 0 0 n, 0xF00F⟩ w = true) : wordXYN op (fieldX w) (fieldY w) n = w :=
  have hf := fields_of_hits_F00F w op n h
  wordXYN_eq_of_low w op n hf.1 hf.2

theorem wordN_of_hits_F000 (w : Word) (op : Nibble) (h : TableRow.hits ⟨wordN op 0, 0xF000⟩ w = true) :
    wordN op (fieldNNN w) = w :=
  wordN_eq_of_fields w op (fieldOp_of_hits_F000 w op h)

theorem wordXNN_of_hits_F000 (w : Word) (op : Nibble) (h : TableRow.hits ⟨wordN op 0, 0xF000⟩ w = true) :
    wordXNN op (fieldX w) (fieldNN w) = w :=
  wordXNN_eq_of_fields w op (fieldOp_of_hits_F000 w op h)

theorem wordXYN_of_hits_F000 (w : Word) (op : Nibble) (h : TableRow.hits ⟨wordN op 0, 0xF000⟩ w = true) :
    wordXYN op (fieldX w) (fieldY w) (fieldLo w) = w :=
  wordXYN_eq_of_fields w op (fieldOp_of_hits_F000 w op h)

/-- A word that matches a row is the word of an instruction of that row: the row's own constructor, with the word's
fields for operands. -/
theorem exists_encode_of_hits (w : Word) (j : Instr) (h : (tableRow j).hits w = true) :
    ∃ i, tableRow i = tableRow j ∧ encode i = w := by
  cases j with
  | sys => exact ⟨.sys (fieldNNN w), rfl, wordN_of_hits_F000 w 0x0 h⟩
  | cls => exact ⟨.cls (fieldHi w), rfl, wordXNN_of_hits_F0FF w 0x0 0xE0 h⟩
  | ret => exact ⟨.ret (fieldHi w), rfl, wordXNN_of_hits_F0FF w 0x0 0xEE h⟩
  | jp => exact ⟨.jp (fieldNNN w), rfl, wordN_of_hits_F000 w 0x1 h⟩
  | call => exact ⟨.call (fieldNNN w), rfl, wordN_of_hits_F000 w 0x2 h⟩
  | seXNN => exact ⟨.seXNN (fieldX w) (fieldNN w), rfl, wordXNN_of_hits_F000 w 0x3 h⟩
  | sneXNN => exact ⟨.sneXNN (fieldX w) (fieldNN w), rfl, wordXNN_of_hits_F000 w 0x4 h⟩
  | seXY => exact ⟨.seXY (fieldX w) (fieldY w) (fieldLo w), rfl, wordXYN_of_hits_F000 w 0x5 h⟩
  | ldXNN => exact ⟨.ldXNN (fieldX w) (fieldNN w), rfl, wordXNN_of_hits_F000 w 0x6 h⟩
  | addXNN => exact ⟨.addXNN (fieldX w) (fieldNN w), rfl, wordXNN_of_hits_F000 w 0x7 h⟩
  | ldXY => exact ⟨.ldXY (fieldX w) (fieldY w), rfl, wordXYN_of_hits_F00F w 0x8 0x0 h⟩
  | orXY => exact ⟨.orXY (fieldX w) (fieldY w), rfl, wordXYN_of_hits_F00F w 0x8 0x1 h⟩
  | andXY => exact ⟨.andXY (fieldX w) (fieldY w), rfl, wordXYN_of_hits_F00F w 0x8 0x2 h⟩
  | xorXY => exact ⟨.xorXY (fieldX w) (fieldY w), rfl, wordXYN_of_hits_F00F w 0x8 0x3 h⟩
  | addXY => exact ⟨.addXY (fieldX w) (fieldY w), rfl, wordXYN_of_hits_F00F w 0x8 0x4 h⟩
  | sub => exact ⟨.sub (fieldX w) (fieldY w), rfl, wordXYN_of_hits_F00F w 0x8 0x5 h⟩
  | shr => exact ⟨.shr (fieldX w) (fieldY w), rfl, wordXYN_of_hits_F00F w 0x8 0x6 h⟩
  | subn => exact ⟨.subn (fieldX w) (fieldY w), rfl, wordXYN_of_hits_F00F w 0x8 0x7 h⟩
  | shl => exact ⟨.shl (fieldX w) (fieldY w), rfl, wordXYN_of_hits_F00F w 0x8 0xE h⟩
  | sneXY => exact ⟨.sneXY (fieldX w) (fieldY w) (fieldLo w), rfl, wordXYN_of_hits_F000 w 0x9 h⟩
  | ldI => exact ⟨.ldI (fieldNNN w), rfl, wordN_of_hits_F000 w 0xA h⟩
  | jpV0 => exact ⟨.jpV0 (fieldNNN w), rfl, wordN_of_hits_F000 w 0xB h⟩
  | rnd => exact ⟨.rnd (fieldX w) (fieldNN w), rfl, wordXNN_of_hits_F000 w 0xC h⟩
  | drw => exact ⟨.drw (fieldX w) (fieldY w) (fieldN w), rfl, wordXYN_of_hits_F000 w 0xD h⟩
  | skp => exact ⟨.skp (fieldX w), rfl, wordXNN_of_hits_F0FF w 0xE 0x9E h⟩
  | sknp => exact ⟨.sknp (fieldX w), rfl, wordXNN_of_hits_F0FF w 0xE 0xA1 h⟩
  | ldXDT => exact ⟨.ldXDT (fieldX w), rfl, wordXNN_of_hits_F0FF w 0xF 0x07 h⟩
  | ldXK => exact ⟨.ldXK (fieldX w), rfl, wordXNN_of_hits_F0FF w 0xF 0x0A h⟩
  | ldDTX => exact ⟨.ldDTX (fieldX w), rfl, wordXNN_of_hits_F0FF w 0xF 0x15 h⟩
  | ldSTX => exact ⟨.ldSTX (fieldX w), rfl, wordXNN_of_hits_F0FF w 0xF 0x18 h⟩
  | addIX => exact ⟨.addIX (fieldX w), rfl, wordXNN_of_hits_F0FF w 0xF 0x1E h⟩
  | ldFX => exact ⟨.ldFX (fieldX w), rfl, wordXNN_of_hits_F0FF w 0xF 0x29 h⟩
  | ldBX => exact ⟨.ldBX (fieldX w), rfl, wordXNN_of_hits_F0FF w 0xF 0x33 h⟩
  | ldMemX => exact ⟨.ldMemX (fieldX w), rfl, wordXNN_of_hits_F0FF w 0xF 0x55 h⟩
  | ldXMem => exact ⟨.ldXMem (fieldX w), rfl, wordXNN_of_hits_F0FF w 0xF 0x65 h⟩

/-- The word of every instruction matches its row: the per-instruction laws put together. -/
theorem hits_encode (i : Instr) : (tableRow i).hits (encode i) = true := by
  cases i with
  | sys nnn => exact Laws.TableMatch.sys nnn
  | cls u => exact Laws.TableMatch.cls u
  | ret u => exact Laws.TableMatch.ret u
  | jp nnn => exact Laws.TableMatch.jp nnn
  | call nnn => exact Laws.TableMatch.call nnn
  | seXNN x nn => exact Laws.TableMatch.seXNN x nn
  | sneXNN x nn => exact Laws.TableMatch.sneXNN x nn
  | seXY x y u => exact Laws.TableMatch.seXY x y u
  | ldXNN x nn => exact Laws.TableMatch.ldXNN x nn
  | addXNN x nn => exact Laws.TableMatch.addXNN x nn
  | ldXY x y => exact Laws.TableMatch.ldXY x y
  | orXY x y => exact Laws.TableMatch.orXY x y
  | andXY x y => exact Laws.TableMatch.andXY x y
  | xorXY x y => exact Laws.TableMatch.xorXY x y
  | addXY x y => exact Laws.TableMatch.addXY x y
  | sub x y => exact Laws.TableMatch.sub x y
  | shr x y => exact Laws.TableMatch.shr x y
  | subn x y => exact Laws.TableMatch.subn x y
  | shl x y => exact Laws.TableMatch.shl x y
  | sneXY x y u => exact Laws.TableMatch.sneXY x y u
  | ldI nnn => exact Laws.TableMatch.ldI nnn
  | jpV0 nnn => exact Laws.TableMatch.jpV0 nnn
  | rnd x nn => exact Laws.TableMatch.rnd x nn
  | drw x y n => exact Laws.TableMatch.drw x y n
  | skp x => exact Laws.TableMatch.skp x
  | sknp x => exact Laws.TableMatch.sknp x
  | ldXDT x => exact Laws.TableMatch.ldXDT x
  | ldXK x => exact Laws.TableMatch.ldXK x
  | ldDTX x => exact Laws.TableMatch.ldDTX x
  | ldSTX x => exact Laws.TableMatch.ldSTX x
  | addIX x => exact Laws.TableMatch.addIX x
  | ldFX x => exact Laws.TableMatch.ldFX x
  | ldBX x => exact Laws.TableMatch.ldBX x
  | ldMemX x => exact Laws.TableMatch.ldMemX x
  | ldXMem x => exact Laws.TableMatch.ldXMem x

/-- Settles O5: a row that the word matches has an instruction with that word, and decoding the word gives that
instruction back, but for a SYS word that is a CLS or RET word. -/
theorem opcodeTableDecidesDecoding : Obligations.OpcodeTableDecidesDecoding := by
  unfold Obligations.OpcodeTableDecidesDecoding
  refine ⟨fun w i j hd => ⟨?own, fun hj => ?other⟩, fun w r j hd => ?unknown⟩
  case own =>
    obtain ⟨-, rfl⟩ := decodedWordIsItsOwnEncoding w i hd
    exact hits_encode i
  case other =>
    obtain ⟨k, hrow, rfl⟩ := exists_encode_of_hits w j hj
    obtain hk | ⟨nnn, u, rfl, hk⟩ := decode_encode_cases k
    · obtain rfl : k = i := by simpa [hk] using hd
      exact .inl hrow.symm
    · refine .inr ⟨hrow.symm, ?_⟩
      obtain hk | hk := hk
      · obtain rfl : .cls u = i := by simpa [hk] using hd
        exact .inl rfl
      · obtain rfl : .ret u = i := by simpa [hk] using hd
        exact .inr rfl
  case unknown =>
    by_contra hj
    obtain ⟨k, -, rfl⟩ := exists_encode_of_hits w j (by simpa using hj)
    obtain hk | ⟨-, u, -, hk | hk⟩ := decode_encode_cases k <;> simp [hk] at hd

/-- Settles O1: each of the words is closed, so decoding it is a computation. -/
theorem knownWordsDecode : Obligations.KnownWordsDecode := by
  unfold Obligations.KnownWordsDecode
  decide

end Sys2Proof
end

section
/-! SUPPORT. `exec` in a normal form with no branch around an update, and from it what the end of a step depends on
(40_cycle.md R69) and what no step reads (10_state.md R29). -/

namespace Sys2Proof.Machine

/-! ### The branching updates as plain writes -/

theorem State.skipIf_eq_jumpTo (s : State) (c : Bool) : s.skipIf c = s.jumpTo (if c then s.pc + 2 else s.pc) := by
  cases c <;> rfl

theorem State.advanceI_eq_setI (s : State) (n : Nat) :
    s.advanceI n = s.setI (if s.params.loadstoreAdvancesI then s.I + BitVec.ofNat 16 n else s.I) := by
  unfold State.advanceI
  split <;> rfl

/-- Raising a condition with its choice, fatal or not, inside the two fields it concerns (R116, R117). -/
theorem State.raise_eq (s : State) (c : Cond) (info : CondInfo) : s.raise c info = { s with
    lastCond := c, lastInfo := info, seen := s.seen ||| c.seenBit
    halt := if c.fatal info.kind then c else s.halt, pc := if c.fatal info.kind then info.pc else s.pc } := by
  unfold State.raise
  split <;> rfl

theorem State.setV_getV (s : State) (x : RegIdx) : s.setV x (s.getV x) = s := by
  simp [State.setV, State.getV, Vector.get_eq_getElem]

/-! ### What an instruction does when it raises nothing -/

/-- The state a quiet instruction ends in, `last_cond` aside. Every choice an instruction makes stands here inside the
value of a field, so that an update of a field it does not read passes through by computation. -/
def effect (s : State) : Instr → State
  | .sys _ => s
  | .cls _ => s.show Display.clear
  | .ret _ => { s with sp := ⟨s.sp.val - 1, by omega⟩, pc := s.stack.get ⟨s.sp.val - 1, by omega⟩ }
  | .jp nnn => s.jumpTo (zextAddr nnn)
  | .call nnn => { s with
      stack := if h : s.sp.val < 16 then s.stack.set s.sp.val s.pc h else s.stack
      sp := ⟨min (s.sp.val + 1) 16, by omega⟩
      pc := zextAddr nnn }
  | .seXNN x nn => s.jumpTo (if s.getV x == nn then s.pc + 2 else s.pc)
  | .sneXNN x nn => s.jumpTo (if s.getV x != nn then s.pc + 2 else s.pc)
  | .seXY x y _ => s.jumpTo (if s.getV x == s.getV y then s.pc + 2 else s.pc)
  | .sneXY x y _ => s.jumpTo (if s.getV x != s.getV y then s.pc + 2 else s.pc)
  | .ldXNN x nn => s.setV x nn
  | .addXNN x nn => s.setV x (s.getV x + nn)
  | .ldXY x y => s.setV x (s.getV y)
  | .orXY x y => s.setFlagged x (logicClear (s.getV x ||| s.getV y))
  | .andXY x y => s.setFlagged x (logicClear (s.getV x &&& s.getV y))
  | .xorXY x y => s.setFlagged x (logicClear (s.getV x ^^^ s.getV y))
  | .addXY x y => s.setFlagged x (addCarry (s.getV x) (s.getV y))
  | .sub x y => s.setFlagged x (subNoBorrow (s.getV x) (s.getV y))
  | .subn x y => s.setFlagged x (subNoBorrow (s.getV y) (s.getV x))
  | .shr x y => s.setFlagged x (shiftRight1 (s.shiftSource x y))
  | .shl x y => s.setFlagged x (shiftLeft1 (s.shiftSource x y))
  | .ldI nnn => s.setI (zextAddr nnn)
  | .jpV0 nnn => s.jumpTo (zextAddr nnn + zextByte (s.getV 0))
  | .rnd x nn => (s.setV x (s.entropyDraw &&& nn)).drawTaken
  | .drw x y n => (s.setV VF (flagByte (s.drawn x y n).2)).show (s.drawn x y n).1
  | .skp x => s.jumpTo (if s.keySelected x then s.pc + 2 else s.pc)
  | .sknp x => s.jumpTo (if !s.keySelected x then s.pc + 2 else s.pc)
  | .ldXDT x => s.setV x s.DT
  | .ldXK x => (s.setV x (s.firstKey.elim (s.getV x) fun k => BitVec.ofNat 8 k.val)).jumpTo
      (s.firstKey.elim (s.pc - 2) fun _ => s.pc)
  | .ldDTX x => s.setDT (s.getV x)
  | .ldSTX x => s.setST (s.getV x)
  | .addIX x => s.setI (s.I + zextByte (s.getV x))
  | .ldFX x => s.setI (5 * zextByte (s.getV x))
  | .ldBX x => s.store (s.dataAddr 0) (bcdDigits (s.getV x))
  | .ldMemX x => (s.store (s.dataAddr 0) (s.regsUpTo x)).setI
      (if s.params.loadstoreAdvancesI then s.I + BitVec.ofNat 16 (x.val + 1) else s.I)
  | .ldXMem x => (s.loadRegs x).setI
      (if s.params.loadstoreAdvancesI then s.I + BitVec.ofNat 16 (x.val + 1) else s.I)

/-! ### An instruction ends in one of two ways -/

theorem exec_drw (x y : RegIdx) (n : Fin 16) (s : State) :
    exec (.drw x y n) s = s.accessing n.val (encode (.drw x y n)) (effect s (.drw x y n)) := rfl

theorem exec_ldBX (x : RegIdx) (s : State) :
    exec (.ldBX x) s = s.accessing 3 (encode (.ldBX x)) (effect s (.ldBX x)) := rfl

theorem exec_ldMemX (x : RegIdx) (s : State) :
    exec (.ldMemX x) s = s.accessing (x.val + 1) (encode (.ldMemX x)) (effect s (.ldMemX x)) :=
  congrArg (s.accessing (x.val + 1) (encode (.ldMemX x))) (State.advanceI_eq_setI _ _)

theorem exec_ldXMem (x : RegIdx) (s : State) :
    exec (.ldXMem x) s = s.accessing (x.val + 1) (encode (.ldXMem x)) (effect s (.ldXMem x)) :=
  congrArg (s.accessing (x.val + 1) (encode (.ldXMem x))) (State.advanceI_eq_setI _ _)

theorem exec_of_raises (s : State) (i : Instr) (c : Cond) (info : CondInfo) (h : Raises s i c info) :
    exec i s = .next (s.raise c info) := by
  cases h with
  | sys nnn h => simp [exec, execSys, h, State.raiseUnknown]
  | call nnn h => simp [exec, execCall, s.push_none s.pc h]
  | ret u h => simp [exec, execRet, s.pop_none h]
  | data i h0 h =>
    cases i with
    | drw x y n => exact (exec_drw x y n s).trans (s.accessing_outOfRange _ _ _ h0 h)
    | ldBX x => exact (exec_ldBX x s).trans (s.accessing_outOfRange _ _ _ h0 h)
    | ldMemX x => exact (exec_ldMemX x s).trans (s.accessing_outOfRange _ _ _ h0 h)
    | ldXMem x => exact (exec_ldXMem x s).trans (s.accessing_outOfRange _ _ _ h0 h)
    | _ => simp [transferLen] at h0

/-- What an instruction that raises nothing accesses lies inside the address space (20_memory.md R34). -/
theorem inRange_of_not_raises (s : State) (i : Instr) (h : ∀ c info, ¬ Raises s i c info) :
    transferLen i = 0 ∨ s.I.toNat + transferLen i ≤ 0x1000 := by
  by_contra hr
  exact h _ _ (.data i (by omega) (by omega))

theorem exec_of_not_raises (s : State) (i : Instr) (h : ∀ c info, ¬ Raises s i c info) :
    exec i s = .next (effect s i).quiet := by
  have hr := inRange_of_not_raises s i h
  cases i with
  | sys nnn =>
    have hp : s.params.sysReportsUnknown = false := Bool.eq_false_of_not_eq_true fun hp => h _ _ (.sys nnn hp)
    simp [exec, execSys, hp, done, effect]
  | ret u =>
    have h0 : s.sp.val ≠ 0 := fun h0 => h _ _ (.ret u h0)
    simp only [exec, execRet, State.pop, dif_neg h0]
    rfl
  | call nnn =>
    have h16 : s.sp.val < 16 := by
      have : s.sp.val ≠ 16 := fun h16 => h _ _ (.call nnn h16)
      omega
    simp [exec, execCall, s.push_some s.pc h16, done, effect, State.jumpTo, State.quiet, h16]
  | seXNN | sneXNN | seXY | sneXY | skp | sknp => exact congrArg done (s.skipIf_eq_jumpTo _)
  | ldXK x =>
    cases hk : s.firstKey with
    | none => simp [exec, execLdXK, hk, done, effect, State.setV_getV]
    | some k => simp only [exec, execLdXK, effect, hk]; rfl
  | drw x y n => exact (exec_drw x y n s).trans (s.accessing_inRange _ _ _ hr)
  | ldBX x => exact (exec_ldBX x s).trans (s.accessing_inRange _ _ _ hr)
  | ldMemX x => exact (exec_ldMemX x s).trans (s.accessing_inRange _ _ _ hr)
  | ldXMem x => exact (exec_ldXMem x s).trans (s.accessing_inRange _ _ _ hr)
  | _ => rfl

/-! ### A step ends in one of three ways (40_cycle.md R61, R68, R69) -/

/-- The condition a step of the running block raises, with its record (60_exceptions.md R114). -/
inductive StepRaises (s : State) : Cond → CondInfo → Prop where
  | fetch (h : 0xFFE < s.pc.toNat) : StepRaises s .memoryOutOfBounds
      { pc := s.pc, word := 0, kind := .fetch, addr := max s.pc.toNat 0x1000 }
  | unknown (r : Reject) (hp : s.pc.toNat ≤ 0xFFE) (h : decode s.fetchWord = .error r) :
    StepRaises s .unknownOpcode { pc := s.pc, word := s.fetchWord, kind := .none, addr := 0 }
  | instr (i : Instr) (c : Cond) (info : CondInfo) (hp : s.pc.toNat ≤ 0xFFE) (hd : decode s.fetchWord = .ok i)
    (h : Raises s.advance i c info) : StepRaises s c info

/-- The instruction a step of the running block carries out without raising anything. -/
structure StepRuns (s : State) (i : Instr) : Prop where
  pc_le : s.pc.toNat ≤ 0xFFE
  decoded : decode s.fetchWord = .ok i
  quiet : ∀ c info, ¬ Raises s.advance i c info

/-- A fatal condition puts pc back, so raising it before or after the base advance is the same. -/
theorem State.raiseFetch_eq_advance_raise (s : State) : s.raiseFetch = s.advance.raise .memoryOutOfBounds
    { pc := s.pc, word := 0, kind := .fetch, addr := max s.pc.toNat 0x1000 } := rfl

theorem step_of_raises (s : State) (c : Cond) (info : CondInfo) (hh : s.halt = .none) (h : StepRaises s c info) :
    step s = .next (s.advance.raise c info) := by
  cases h with
  | fetch hp => rw [step_fetchOutOfRange s hh hp, State.raiseFetch_eq_advance_raise]
  | unknown r hp hd => simp [step_unknown s r hh hp hd, State.raiseUnknown, State.plainInfo]
  | instr i c info hp hd h => rw [step_decoded s i hh hp hd, exec_of_raises _ _ _ _ h]

theorem step_of_runs (s : State) (i : Instr) (hh : s.halt = .none) (h : StepRuns s i) :
    step s = .next (effect s.advance i).quiet := by
  rw [step_decoded s i hh h.pc_le h.decoded, exec_of_not_raises _ _ h.quiet]

theorem stepRaises_or_stepRuns (s : State) : (∃ c info, StepRaises s c info) ∨ ∃ i, StepRuns s i := by
  by_cases hp : s.pc.toNat ≤ 0xFFE
  case neg => exact .inl ⟨_, _, .fetch (not_le.1 hp)⟩
  cases hd : decode s.fetchWord with
  | error r => exact .inl ⟨_, _, .unknown r hp hd⟩
  | ok i =>
    by_cases hr : ∃ c info, Raises s.advance i c info
    · obtain ⟨c, info, hr⟩ := hr
      exact .inl ⟨c, info, .instr i c info hp hd hr⟩
    · exact .inr ⟨i, hp, hd, fun c info h => hr ⟨c, info, h⟩⟩

/-- Every step, of the halted block too. -/
theorem step_cases (s t : State) (h : step s = .next t) :
    (s.halt ≠ .none ∧ t = s) ∨
    (s.halt = .none ∧ ∃ c info, StepRaises s c info ∧ t = s.advance.raise c info) ∨
    (s.halt = .none ∧ ∃ i, StepRuns s i ∧ t = (effect s.advance i).quiet) := by
  by_cases hh : s.halt = .none
  case neg => exact .inl ⟨hh, by simpa [step_halted s hh, eq_comm] using h⟩
  refine .inr ?_
  obtain ⟨c, info, hr⟩ | ⟨i, hr⟩ := stepRaises_or_stepRuns s
  · exact .inl ⟨hh, c, info, hr, by simpa [step_of_raises s c info hh hr, eq_comm] using h⟩
  · exact .inr ⟨hh, i, hr, by simpa [step_of_runs s i hh hr, eq_comm] using h⟩

/-! ### What the end of a step depends on -/

/-- The elements that settle whether an instruction raises a condition, and what it records. -/
structure SameControl (s u : State) : Prop where
  I : u.I = s.I
  pc : u.pc = s.pc
  sp : u.sp = s.sp
  params : u.params = s.params

theorem Raises.congr {s u : State} {i : Instr} {c : Cond} {info : CondInfo} (h : Raises s i c info)
    (same : SameControl s u) : Raises u i c info := by
  obtain ⟨hI, hpc, hsp, hparams⟩ := same
  have hplain : ∀ w, s.plainInfo w = u.plainInfo w := fun w => by simp [State.plainInfo, State.instrAddr, hpc]
  cases h with
  | sys nnn h => exact hplain _ ▸ .sys nnn (hparams ▸ h)
  | call nnn h => exact hplain _ ▸ .call nnn (hsp ▸ h)
  | ret u h => exact hplain _ ▸ .ret u (hsp ▸ h)
  | data i h0 h =>
    have := Raises.data (s := u) i h0 (hI ▸ h)
    rwa [State.instrAddr, hI, hpc] at this

theorem SameControl.symm {s u : State} (h : SameControl s u) : SameControl u s :=
  ⟨h.I.symm, h.pc.symm, h.sp.symm, h.params.symm⟩

theorem SameControl.advance {s u : State} (h : SameControl s u) : SameControl s.advance u.advance :=
  ⟨h.I, congrArg (· + 2) h.pc, h.sp, h.params⟩

theorem StepRaises.congr {s u : State} {c : Cond} {info : CondInfo} (h : StepRaises s c info)
    (same : SameControl s u) (hmem : u.mem = s.mem) : StepRaises u c info := by
  have hw : u.fetchWord = s.fetchWord := by simp [State.fetchWord, same.pc, hmem]
  cases h with
  | fetch h => exact same.pc ▸ .fetch (same.pc ▸ h)
  | unknown r hp h => exact hw ▸ same.pc ▸ .unknown r (same.pc ▸ hp) (hw ▸ h)
  | instr i c info hp hd h => exact .instr i c info (same.pc ▸ hp) (hw ▸ hd) (h.congr same.advance)

theorem StepRuns.congr {s u : State} {i : Instr} (h : StepRuns s i) (same : SameControl s u) (hmem : u.mem = s.mem) :
    StepRuns u i := by
  have hw : u.fetchWord = s.fetchWord := by simp [State.fetchWord, same.pc, hmem]
  exact ⟨same.pc ▸ h.pc_le, hw ▸ h.decoded, fun c info hr => h.quiet c info (hr.congr same.advance.symm)⟩

/-- Two states that agree on the elements a step's end depends on come to the same end. -/
theorem step_same_end (s u t : State) (h : step s = .next t) (hhalt : u.halt = s.halt) (same : SameControl s u)
    (hmem : u.mem = s.mem) :
    (t = s ∧ step u = .next u) ∨
    (∃ c info, t = s.advance.raise c info ∧ step u = .next (u.advance.raise c info)) ∨
    (∃ i, StepRuns s i ∧ t = (effect s.advance i).quiet ∧ step u = .next (effect u.advance i).quiet) := by
  obtain ⟨hh, rfl⟩ | ⟨hh, c, info, hr, rfl⟩ | ⟨hh, i, hr, rfl⟩ := step_cases s t h
  · exact .inl ⟨rfl, step_halted u (hhalt ▸ hh)⟩
  · exact .inr (.inl ⟨c, info, rfl, step_of_raises u c info (hhalt.trans hh) (hr.congr same hmem)⟩)
  · exact .inr (.inr ⟨i, hr, rfl, step_of_runs u i (hhalt.trans hh) (hr.congr same hmem)⟩)

/-! ### What no step reads -/

/-- Settles O16: the two states come to the same end, and each end writes the five elements without reading them. -/
theorem hostOnlyStateIsNeverRead : Obligations.HostOnlyStateIsNeverRead := by
  unfold Obligations.HostOnlyStateIsNeverRead
  intro s t st d c i b h
  have hend := step_same_end s { s with ST := st, dirty := d, lastCond := c, lastInfo := i, seen := b } t h rfl
    ⟨rfl, rfl, rfl, rfl⟩ rfl
  obtain ⟨rfl, hu⟩ | ⟨c', info, rfl, hu⟩ | ⟨k, -, rfl, hu⟩ := hend
  · exact ⟨_, _, _, _, _, hu⟩
  · rw [State.raise_eq] at hu ⊢
    exact ⟨st, d, c', info, b ||| c'.seenBit, hu⟩
  · cases k with
    | cls | drw => exact ⟨st, true, .none, i, b, hu⟩
    | ldSTX x => exact ⟨s.getV x, d, .none, i, b, hu⟩
    | _ => exact ⟨st, d, .none, i, b, hu⟩

/-- Settles O18: only the effect of `Cxnn` reads or writes the two draw fields. -/
theorem entropyReachesOnlyRandom : Obligations.EntropyReachesOnlyRandom := by
  unfold Obligations.EntropyReachesOnlyRandom
  intro s t d k h hrnd
  have hend := step_same_end s { s with drawIn := d, drawCount := k } t h rfl ⟨rfl, rfl, rfl, rfl⟩ rfl
  obtain ⟨rfl, hu⟩ | ⟨c, info, rfl, hu⟩ | ⟨i, hr, rfl, hu⟩ := hend
  · exact hu
  · rw [State.raise_eq] at hu ⊢
    exact hu
  · cases i with
    | rnd x nn => exact absurd hr.decoded (hrnd x nn)
    | _ => exact hu

theorem get_set_eq_ite (v : Vector Word 16) (k j : Fin 16) (a : Word) :
    (v.set k.val a k.isLt).get j = if j.val = k.val then a else v.get j := by
  simp [Vector.get_eq_getElem, Vector.getElem_set, eq_comm]

/-- R76: the entry at sp is the address after the call, the others stay. -/
theorem effect_call_stack (s : State) (nnn : Addr) (h : s.sp.val < 16) (k : Fin 16) :
    (effect s (.call nnn)).stack.get k = if k.val = s.sp.val then s.pc else s.stack.get k := by
  simp only [effect, dif_pos h]
  exact get_set_eq_ite s.stack ⟨s.sp.val, h⟩ k s.pc

/-- Only CALL and RET read the stack. -/
theorem effect_stack_update (s : State) (stk : Vector Word 16) (i : Instr) (hcall : ∀ nnn, i ≠ .call nnn)
    (hret : ∀ u, i ≠ .ret u) : effect { s with stack := stk } i = { effect s i with stack := stk } := by
  cases i with
  | call nnn => exact absurd rfl (hcall nnn)
  | ret u => exact absurd rfl (hret u)
  | _ => rfl

/-- Only CALL and RET write the stack or sp. -/
theorem effect_stack_frame (s : State) (i : Instr) (hcall : ∀ nnn, i ≠ .call nnn) (hret : ∀ u, i ≠ .ret u) :
    (effect s i).stack = s.stack ∧ (effect s i).sp = s.sp := by
  cases i with
  | call nnn => exact absurd rfl (hcall nnn)
  | ret u => exact absurd rfl (hret u)
  | _ => simp [effect]

/-- Settles O17: RET reads the entry below sp, CALL writes the one at sp, and no other effect names the stack. -/
theorem staleStackEntriesAreNeverRead : Obligations.StaleStackEntriesAreNeverRead := by
  unfold Obligations.StaleStackEntriesAreNeverRead
  intro s t k a hk h
  have hend := step_same_end s { s with stack := s.stack.set k.val a k.isLt } t h rfl ⟨rfl, rfl, rfl, rfl⟩ rfl
  have below : ∀ j : Fin 16, j.val < s.sp.val → (s.stack.set k.val a k.isLt).get j = s.stack.get j :=
    fun j hj => by rw [get_set_eq_ite, if_neg (by omega)]
  obtain ⟨rfl, hu⟩ | ⟨c, info, rfl, hu⟩ | ⟨i, hr, rfl, hu⟩ := hend
  · exact ⟨_, hu, rfl, below⟩
  · rw [State.raise_eq] at hu ⊢
    exact ⟨_, hu, rfl, below⟩
  by_cases hcall : ∃ nnn, i = .call nnn
  · obtain ⟨nnn, rfl⟩ := hcall
    have hsp : s.sp.val < 16 := by
      have : s.sp.val ≠ 16 := fun h16 => hr.quiet _ _ (.call nnn h16)
      omega
    refine ⟨_, hu, rfl, fun j hj => ?_⟩
    have hj : j.val < s.sp.val + 1 := lt_of_lt_of_le hj (min_le_left _ _)
    refine (effect_call_stack (State.advance { s with stack := _ }) nnn hsp j).trans
      (Eq.trans ?_ (effect_call_stack s.advance nnn hsp j).symm)
    by_cases htop : j.val = s.sp.val
    · exact (if_pos htop).trans (if_pos htop).symm
    · exact (if_neg htop).trans ((below j (by omega)).trans (if_neg htop).symm)
  by_cases hret : ∃ u, i = .ret u
  · obtain ⟨u, rfl⟩ := hret
    have hsp : s.sp.val ≠ 0 := fun h0 => hr.quiet _ _ (.ret u h0)
    have htop := below ⟨s.sp.val - 1, by omega⟩ (show s.sp.val - 1 < s.sp.val by omega)
    refine ⟨_, hu, ?_, fun j hj => below j (lt_of_lt_of_le hj (Nat.sub_le _ _))⟩
    simp [effect, htop, State.quiet, State.advance]
  have hcall' : ∀ nnn, i ≠ .call nnn := fun nnn e => hcall ⟨nnn, e⟩
  have hret' : ∀ u, i ≠ .ret u := fun u e => hret ⟨u, e⟩
  obtain ⟨hstack, hsp⟩ := effect_stack_frame s.advance i hcall' hret'
  refine ⟨_, hu.trans (congrArg (fun e => Host.Outcome.next e.quiet)
    (effect_stack_update s.advance _ i hcall' hret')), rfl, fun j hj => ?_⟩
  exact (below j (hsp ▸ hj)).trans (congrArg (·.get j) hstack.symm)

end Sys2Proof.Machine
end

section
/-! SUPPORT. What a step leaves in the status elements (60_exceptions.md R114 to R118), the invariant, and the verbs that
come between steps (R128). -/

namespace Sys2Proof.Machine

/-! ### Whole steps (40_cycle.md) -/

/-- Settles O6: the word is the two bytes at pc, and the base advance is the update written out. -/
theorem stepRunsDecodedInstruction : Obligations.StepRunsDecodedInstruction := by
  unfold Obligations.StepRunsDecodedInstruction
  intro s i hh hp hd
  exact step_decoded s i hh hp hd

theorem stepVerb_of_step (s t : State) (r : Byte) (h : step { s with drawIn := some r } = .next t) :
    s.stepVerb r = .next ({ t with drawIn := s.drawIn }, .code (reported s t)) := by
  simp [State.stepVerb, h]

theorem stepVerb_halted (s : State) (r : Byte) (hh : s.halt ≠ .none) : s.stepVerb r = .next (s, .code s.halt) := by
  rw [stepVerb_of_step s _ r (step_halted { s with drawIn := some r } hh), reported, if_pos hh]

/-- Settles O7: the test for the halted block stands in front of the step, and the verb reports what that test saw. -/
theorem haltedStepChangesNothing : Obligations.HaltedStepChangesNothing := by
  unfold Obligations.HaltedStepChangesNothing
  exact fun s r hh => ⟨step_halted s hh, stepVerb_halted s r hh⟩

/-- Settles O8: the condition of the fetch is fatal, and its frame is the status alone. -/
theorem fetchPastTheEndHalts : Obligations.FetchPastTheEndHalts := by
  unfold Obligations.FetchPastTheEndHalts
  intro s hh hp
  exact ⟨_, step_fetchOutOfRange s hh hp, rfl, rfl, rfl, rfl, rfl, .raise _ _ _ _ rfl⟩

/-- Settles O10: a step that raises a condition answers next as one that runs its instruction does. -/
theorem everyStepAnswersNext : Obligations.EveryStepAnswersNext := by
  unfold Obligations.EveryStepAnswersNext
  intro s
  by_cases hh : s.halt = .none
  case neg => exact ⟨s, step_halted s hh⟩
  obtain ⟨c, info, hr⟩ | ⟨i, hr⟩ := stepRaises_or_stepRuns s
  · exact ⟨_, step_of_raises s c info hh hr⟩
  · exact ⟨_, step_of_runs s i hh hr⟩

/-! ### What a condition records (R114) -/

theorem StepRaises.info_pc {s : State} {c : Cond} {info : CondInfo} (h : StepRaises s c info) : info.pc = s.pc := by
  cases h with
  | fetch => rfl
  | unknown => rfl
  | instr i c info hp hd h => cases h <;> simp [State.plainInfo]

/-- A memory condition records its kind and an address outside the address space, any other neither. -/
theorem StepRaises.info_addr {s : State} {c : Cond} {info : CondInfo} (h : StepRaises s c info) :
    (c ≠ .memoryOutOfBounds ∧ info.kind = .none ∧ info.addr = 0) ∨
    (c = .memoryOutOfBounds ∧ info.kind ≠ .none ∧ 0xFFF < info.addr) := by
  cases h with
  | fetch => simp
  | unknown => simp
  | instr i c info hp hd h => cases h <;> simp [State.plainInfo]

theorem StepRaises.ne_none {s : State} {c : Cond} {info : CondInfo} (h : StepRaises s c info) : c ≠ .none := by
  cases h with
  | fetch => simp
  | unknown => simp
  | instr i c info hp hd h => cases h <;> simp

/-- The status elements are no instruction's to write (R115). -/
theorem effect_status (s : State) (i : Instr) :
    (effect s i).halt = s.halt ∧ (effect s i).lastInfo = s.lastInfo ∧ (effect s i).seen = s.seen := by
  cases i <;> simp [effect]

/-! ### Conditions over whole steps (R115 to R117) -/

/-- Settles O11: a fatal condition puts pc back to the address it records, which undoes the base advance. -/
theorem fatalConditionIsPrecise : Obligations.FatalConditionIsPrecise := by
  unfold Obligations.FatalConditionIsPrecise
  intro s t hh h hhalt
  obtain ⟨hh', -⟩ | ⟨-, c, info, hr, rfl⟩ | ⟨-, i, -, rfl⟩ := step_cases s t h
  · exact absurd hh hh'
  · cases hf : c.fatal info.kind with
    | false => simp [hf, hh] at hhalt
    | true =>
      rw [State.raise_fatal _ _ _ hf]
      refine ⟨by rw [hr.info_pc]; rfl, hr.info_pc, ?_⟩
      rintro rfl
      simp [Cond.fatal] at hf
  · obtain ⟨hhalt', -⟩ := effect_status s.advance i
    exact absurd (hhalt'.trans hh) hhalt

/-- Settles O12: of the conditions that are not fatal only UnknownOpcode and a data access are left. -/
theorem nonFatalConditionOnlyAdvances : Obligations.NonFatalConditionOnlyAdvances := by
  unfold Obligations.NonFatalConditionOnlyAdvances
  intro s t hh h hhalt hlast
  obtain ⟨hh', -⟩ | ⟨-, c, info, hr, rfl⟩ | ⟨-, i, -, rfl⟩ := step_cases s t h
  · exact absurd hh hh'
  · have hf : c.fatal info.kind = false :=
      Bool.eq_false_of_not_eq_true fun hf => hr.ne_none (by simpa [hf] using hhalt)
    rw [State.raise_nonfatal _ _ _ hf]
    refine ⟨rfl, hr.info_pc, ?_⟩
    show c = _ ∨ c = _ ∧ info.kind = _
    obtain ⟨hc, -⟩ | ⟨rfl, hkind, -⟩ := hr.info_addr
    · cases c with
      | none => exact absurd rfl hr.ne_none
      | unknownOpcode => exact .inl rfl
      | memoryOutOfBounds => exact absurd rfl hc
      | stackOverflow | stackUnderflow => simp [Cond.fatal] at hf
    · refine .inr ⟨rfl, ?_⟩
      cases hk : info.kind with
      | none => exact absurd hk hkind
      | fetch => simp [Cond.fatal, hk] at hf
      | data => rfl
  · exact absurd rfl hlast

/-- Settles O13: one write of the status for every condition, which `Cond.fatal` and `Cond.seenBit` tell apart. -/
theorem statusRecordsEachStep : Obligations.StatusRecordsEachStep := by
  unfold Obligations.StatusRecordsEachStep
  intro s t hh h
  obtain ⟨hh', -⟩ | ⟨-, c, info, hr, rfl⟩ | ⟨-, i, -, rfl⟩ := step_cases s t h
  · exact absurd hh hh'
  · cases c with
    | none => exact absurd rfl hr.ne_none
    | _ => simp [Cond.fatal, Cond.seenBit, hh]
  · obtain ⟨hhalt, hinfo, hseen⟩ := effect_status s.advance i
    simp [hhalt, hinfo, hseen, hh]

/-- Only the clear and the draw show a display, and showing one marks it dirty (10_state.md R26). -/
theorem effect_disp (s : State) (i : Instr) (h : (effect s i).disp ≠ s.disp) :
    (effect s i).dirty = true ∧ ((∃ u, i = .cls u) ∨ ∃ x y n, i = .drw x y n) := by
  cases i with
  | cls u => exact ⟨rfl, .inl ⟨u, rfl⟩⟩
  | drw x y n => exact ⟨rfl, .inr ⟨x, y, n, rfl⟩⟩
  | _ => simp [effect] at h

/-- Settles O15: a step that raises a condition keeps the display, and of the effects two show one. -/
theorem displayChangesOnlyByDrawAndClear : Obligations.DisplayChangesOnlyByDrawAndClear := by
  unfold Obligations.DisplayChangesOnlyByDrawAndClear
  intro s t h hdisp
  obtain ⟨-, rfl⟩ | ⟨-, c, info, -, rfl⟩ | ⟨-, i, hr, rfl⟩ := step_cases s t h
  · exact absurd rfl hdisp
  · simp at hdisp
  · rw [hr.decoded]
    simpa using effect_disp s.advance i hdisp

/-! ### The invariant over a step -/

theorem and_or_self (a b : BitVec 4) : a &&& (a ||| b) = a := by
  apply BitVec.eq_of_getLsbD_eq
  intro i _
  rw [BitVec.getLsbD_and, BitVec.getLsbD_or]
  cases a.getLsbD i <;> rfl

theorem Cond.seenBit_and_or (c : Cond) (b : BitVec 4) : c.seenBit &&& (b ||| c.seenBit) = c.seenBit := by
  rw [BitVec.or_comm, and_or_self]

theorem Cond.or_seenBit_ne_zero (c : Cond) (b : BitVec 4) (h : c ≠ .none) : b ||| c.seenBit ≠ 0 := by
  revert b
  cases c with
  | none => exact absurd rfl h
  | _ => decide

/-- A state with the status elements and the pc of one that meets the invariant, and canonical memory, meets it. -/
theorem State.Inv.of_same_status {s t : State} (h : s.Inv) (hmem : t.mem.wf = true) (hhalt : t.halt = s.halt)
    (hlast : t.lastCond = s.lastCond) (hinfo : t.lastInfo = s.lastInfo) (hseen : t.seen = s.seen) (hpc : t.pc = s.pc) :
    t.Inv := by
  constructor
  case mem_wf => exact hmem
  case halt_fatal => rw [hhalt, hinfo]; exact h.halt_fatal
  case halt_last => rw [hhalt, hlast, hinfo, hpc]; exact h.halt_last
  case last_seen => rw [hlast, hseen]; exact h.last_seen
  case info_addr => rw [hinfo, hseen]; exact h.info_addr
  case unseen_info => rw [hseen, hinfo]; exact h.unseen_info

/-- A running state that reported nothing meets the invariant wherever its pc stands. -/
theorem State.Inv.of_quiet {s t : State} (h : s.Inv) (hmem : t.mem.wf = true) (hhalt : t.halt = .none)
    (hlast : t.lastCond = .none) (hinfo : t.lastInfo = s.lastInfo) (hseen : t.seen = s.seen) : t.Inv := by
  constructor
  case mem_wf => exact hmem
  case halt_fatal => exact (absurd hhalt ·)
  case halt_last => exact (absurd hhalt ·)
  case last_seen => simp [hlast, Cond.seenBit]
  case info_addr => rw [hinfo, hseen]; exact h.info_addr
  case unseen_info => rw [hseen, hinfo]; exact h.unseen_info

/-- Raising the condition of a step keeps the invariant: its record is the one the invariant asks for. -/
theorem State.Inv.raise {s : State} {c : Cond} {info : CondInfo} (h : s.Inv) (hh : s.halt = .none)
    (hr : StepRaises s c info) : (s.advance.raise c info).Inv := by
  constructor
  case mem_wf => simpa using h.mem_wf
  case halt_fatal =>
    cases hf : c.fatal info.kind <;> simp [hf, hh]
  case halt_last =>
    cases hf : c.fatal info.kind <;> simp [hf, hh]
  case last_seen => simpa using c.seenBit_and_or s.seen
  case info_addr =>
    obtain ⟨-, hkind, haddr⟩ | ⟨rfl, hkind, haddr⟩ := hr.info_addr
    · exact .inl ⟨by simpa using hkind, by simpa using haddr⟩
    · exact .inr ⟨by simpa using hkind, by simpa using haddr, by simpa using Cond.seenBit_and_or _ s.seen⟩
  case unseen_info =>
    intro hseen
    exact absurd (by simpa using hseen) (c.or_seenBit_ne_zero s.seen hr.ne_none)

/-- An effect in range keeps the canonical form: only Fx33 and Fx55 store, and inside the address space. -/
theorem effect_mem_wf (s : State) (i : Instr) (h : s.mem.wf = true)
    (hr : transferLen i = 0 ∨ s.I.toNat + transferLen i ≤ 0x1000) : (effect s i).mem.wf = true := by
  cases i with
  | ldBX x =>
    refine Memory.wf_writeBytes s.mem _ _ h ?_
    simpa [transferLen, State.dataAddr] using hr
  | ldMemX x =>
    refine Memory.wf_writeBytes s.mem _ _ h ?_
    simpa [transferLen, State.dataAddr] using hr
  | _ => simpa [effect] using h

/-- Settles O20: each of the three ends of a step keeps the invariant. -/
theorem everyStepKeepsTheInvariant : Obligations.EveryStepKeepsTheInvariant := by
  unfold Obligations.EveryStepKeepsTheInvariant
  intro s t hinv h
  obtain ⟨-, rfl⟩ | ⟨hh, c, info, hr, rfl⟩ | ⟨hh, i, hr, rfl⟩ := step_cases s t h
  · exact hinv
  · exact hinv.raise hh hr
  · obtain ⟨hhalt, hinfo, hseen⟩ := effect_status s.advance i
    exact hinv.of_quiet (effect_mem_wf s.advance i hinv.mem_wf (inRange_of_not_raises s.advance i hr.quiet))
      (hhalt.trans hh) rfl hinfo hseen

/-! ### The invariant over the verbs (R128) -/

/-- Settles O19: the reset memory is canonical, and the status elements are at their reset values. -/
theorem resetMeetsTheInvariant : Obligations.ResetMeetsTheInvariant := by
  unfold Obligations.ResetMeetsTheInvariant
  exact ⟨Memory.wf_reset, (absurd rfl ·), (absurd rfl ·), rfl, .inl ⟨rfl, rfl⟩, fun _ => rfl⟩

theorem stepVerb_next (s t : State) (r : Byte) (reply : Reply) (h : s.stepVerb r = .next (t, reply)) :
    ∃ u, step { s with drawIn := some r } = .next u ∧ t = { u with drawIn := s.drawIn } := by
  obtain ⟨u, hu⟩ := everyStepAnswersNext { s with drawIn := some r }
  rw [stepVerb_of_step s u r hu] at h
  cases h
  exact ⟨u, hu, rfl⟩

theorem State.Inv.load {s : State} (h : s.Inv) (bytes : List Byte) : (s.load bytes).1.Inv := by
  by_cases hlen : bytes.length ≤ romMax
  · rw [s.load_ok bytes hlen]
    have hlen' : bytes.length ≤ 3584 := hlen
    exact h.of_same_status (Memory.wf_writeBytes s.mem 0x200 bytes h.mem_wf (by omega)) rfl rfl rfl rfl rfl
  · rw [s.load_tooLarge bytes (not_le.1 hlen)]
    exact h

/-- Every verb keeps the invariant. -/
theorem State.Inv.apply {s t : State} (h : s.Inv) (v : Verb) (reply : Reply) (hv : s.apply v = .next (t, reply)) :
    t.Inv := by
  cases v with
  | reset =>
    cases hv
    exact resetMeetsTheInvariant.of_same_status (Memory.wf_writeBytes [] 0 _ rfl (by simp)) rfl rfl rfl rfl rfl
  | load bytes => cases hv; exact h.load bytes
  | step r =>
    obtain ⟨u, hu, rfl⟩ := stepVerb_next s t r reply hv
    have hin : State.Inv { s with drawIn := some r } := h.of_same_status h.mem_wf rfl rfl rfl rfl rfl
    have hout := everyStepKeepsTheInvariant _ u hin hu
    exact hout.of_same_status hout.mem_wf rfl rfl rfl rfl rfl
  | tick | setKey | ackDisplay | observe => cases hv; exact h.of_same_status h.mem_wf rfl rfl rfl rfl rfl

/-- A sequence that ends has applied its first verb, and then the rest of it. -/
theorem applyAll_cons (s t : State) (v : Verb) (vs : List Verb) (h : s.applyAll (v :: vs) = .next t) :
    ∃ u reply, s.apply v = .next (u, reply) ∧ u.applyAll vs = .next t := by
  unfold State.applyAll at h
  split at h
  case h_1 u reply hv => exact ⟨u, reply, hv, h⟩
  all_goals cases h

/-- Settles O21, by induction on the list of verbs. -/
theorem everyVerbSequenceKeepsTheInvariant : Obligations.EveryVerbSequenceKeepsTheInvariant := by
  unfold Obligations.EveryVerbSequenceKeepsTheInvariant
  intro vs
  induction vs with
  | nil => intro s t hinv h; cases h; exact hinv
  | cons v vs ih =>
    intro s t hinv h
    obtain ⟨u, reply, hv, hvs⟩ := applyAll_cons s t v vs h
    exact ih u t (hinv.apply v reply hv) hvs

/-! ### The canonical form of memory -/

theorem Memory.read_of_mem (m : Memory) (c : Host.Cell) (hs : m.Pairwise (fun c d => c.1 < d.1)) (hc : c ∈ m) :
    m.read c.1 = c.2 := by
  induction m with
  | nil => cases hc
  | cons d m ih =>
    obtain ⟨hd, hm⟩ := List.pairwise_cons.1 hs
    obtain rfl | hc := List.mem_cons.1 hc
    · simp [Memory.read]
    · simp [Memory.read, (hd c hc).ne, ih hm hc]

theorem Memory.mem_of_read (m : Memory) (a : Nat) (h : m.read a ≠ resetByte a) : (a, m.read a) ∈ m := by
  induction m with
  | nil => exact absurd rfl h
  | cons d m ih =>
    obtain ⟨k, v⟩ := d
    by_cases hk : k = a
    · simp [Memory.read, hk]
    · simp only [Memory.read, hk, if_false] at h ⊢
      exact List.mem_cons_of_mem _ (ih h)

/-- A canonical memory lists exactly the bytes that differ from what reset left. -/
theorem Memory.mem_iff_read (m : Memory) (h : m.wf = true) (c : Host.Cell) :
    c ∈ m ↔ m.read c.1 = c.2 ∧ c.2 ≠ resetByte c.1 := by
  obtain ⟨hs, hne⟩ := m.wf_iff.1 h
  constructor
  · exact fun hc => ⟨m.read_of_mem c hs hc, (hne c hc).2⟩
  · rintro ⟨hr, hc⟩
    have := m.mem_of_read c.1 (hr ▸ hc)
    rwa [hr] at this

/-- Settles O22: both lists have the same cells, in the same strict order. -/
theorem memoriesThatReadAlikeAreEqual : Obligations.MemoriesThatReadAlikeAreEqual := by
  unfold Obligations.MemoriesThatReadAlikeAreEqual
  intro m m' h h' hread
  have hcells : ∀ c, c ∈ m ↔ c ∈ m' := fun c => by rw [m.mem_iff_read h, m'.mem_iff_read h', hread]
  have : Std.Antisymm fun c d : Host.Cell => c.1 < d.1 := ⟨fun c d hcd hdc => absurd hcd (lt_asymm hdc)⟩
  have : Std.Irrefl fun c d : Host.Cell => c.1 < d.1 := ⟨fun c => lt_irrefl c.1⟩
  exact (m.wf_iff.1 h).1.eq_of_mem_iff (m'.wf_iff.1 h').1 hcells

/-! ### What only a reset undoes (R138) -/

/-- From `s` to `t` no bit of `seen` is cleared, and a halted block stays as it halted. -/
def KeepsHalt (s t : State) : Prop :=
  s.seen &&& t.seen = s.seen ∧
  (s.halt ≠ .none → t.halt = s.halt ∧ t.pc = s.pc ∧ t.V = s.V ∧ t.I = s.I ∧ t.stack = s.stack ∧ t.sp = s.sp ∧
    t.disp = s.disp ∧ t.lastCond = s.lastCond ∧ t.lastInfo = s.lastInfo ∧ t.seen = s.seen)

theorem KeepsHalt.refl (s : State) : KeepsHalt s s := by
  simp [KeepsHalt]

theorem KeepsHalt.trans {s t u : State} (h : KeepsHalt s t) (h' : KeepsHalt t u) : KeepsHalt s u := by
  obtain ⟨hseen, hhalt⟩ := h
  obtain ⟨hseen', hhalt'⟩ := h'
  refine ⟨by rw [← hseen, BitVec.and_assoc, hseen'], fun hh => ?_⟩
  have same := hhalt hh
  simpa only [same] using hhalt' (same.1 ▸ hh)

theorem KeepsHalt.step {s t : State} (h : step s = .next t) : KeepsHalt s t := by
  obtain ⟨-, rfl⟩ | ⟨hh, c, info, -, rfl⟩ | ⟨hh, i, -, rfl⟩ := step_cases s t h
  · exact .refl _
  · refine ⟨?_, (absurd hh ·)⟩
    rw [State.raise_seen, State.advance_seen, and_or_self]
  · refine ⟨?_, (absurd hh ·)⟩
    simp [(effect_status s.advance i).2.2]

theorem KeepsHalt.apply {s t : State} (v : Verb) (reply : Reply) (hne : v ≠ .reset)
    (hv : s.apply v = .next (t, reply)) : KeepsHalt s t := by
  cases v with
  | reset => exact absurd rfl hne
  | load bytes =>
    cases hv
    by_cases hlen : bytes.length ≤ romMax
    · rw [s.load_ok bytes hlen]; exact .refl s
    · rw [s.load_tooLarge bytes (not_le.1 hlen)]; exact .refl s
  | step r =>
    obtain ⟨u, hu, rfl⟩ := stepVerb_next s t r reply hv
    have hkeeps : KeepsHalt { s with drawIn := some r } u := .step hu
    exact hkeeps
  | tick | setKey | ackDisplay | observe => cases hv; exact .refl s

/-- Settles O60, by induction on the list of verbs: each but the reset keeps the halt and the bits of `seen`. -/
theorem onlyResetEndsTheHalt : Obligations.OnlyResetEndsTheHalt := by
  unfold Obligations.OnlyResetEndsTheHalt
  intro vs
  induction vs with
  | nil => intro s t _ h; cases h; exact KeepsHalt.refl s
  | cons v vs ih =>
    intro s t hne h
    obtain ⟨hv, hvs⟩ : v ≠ .reset ∧ Verb.reset ∉ vs := by simpa [eq_comm] using hne
    obtain ⟨u, reply, hu, ht⟩ := applyAll_cons s t v vs h
    exact (KeepsHalt.apply v reply hv hu).trans (ih u t hvs ht)

end Sys2Proof.Machine
end

section
/-! SUPPORT. Control transfer with a register, the stack or no operand (41_flow.md R73, R74, R76, R79 to R81, R145): where
each instruction of the family ends, and the statements settled from them. -/

namespace Sys2Proof.Machine

/-! ### Skips and the jump with offset (R79 to R81) -/

theorem exec_seXY (x y : RegIdx) (u : Nibble) (s : State) :
    exec (.seXY x y u) s = .next (s.skipIf (s.getV x == s.getV y)).quiet := rfl

theorem exec_sneXY (x y : RegIdx) (u : Nibble) (s : State) :
    exec (.sneXY x y u) s = .next (s.skipIf (s.getV x != s.getV y)).quiet := rfl

theorem exec_jpV0 (nnn : Addr) (s : State) :
    exec (.jpV0 nnn) s = .next (s.jumpTo (zextAddr nnn + zextByte (s.getV 0))).quiet := rfl

/-- Twelve bits and eight bits do not fill sixteen, so the sum does not wrap. -/
theorem toNat_zextAddr_add_zextByte (nnn : Addr) (b : Byte) :
    (zextAddr nnn + zextByte b).toNat = nnn.toNat + b.toNat := by
  have := nnn.isLt
  have := b.isLt
  rw [BitVec.toNat_add, toNat_zextAddr, toNat_zextByte]
  omega

/-- Settles O25: both are `skipIf`, 9xy- on the negated condition, so its two targets are exchanged. -/
theorem skipsOnRegisters : Obligations.SkipsOnRegisters := by
  unfold Obligations.SkipsOnRegisters
  refine ⟨fun x y u => decode_wordXYN_seXY x.toFin y.toFin u, fun x y u => decode_wordXYN_sneXY x.toFin y.toFin u,
    fun x y u s => ⟨⟨_, exec_seXY x y u s, ?eq⟩, ⟨_, exec_sneXY x y u s, ?ne⟩⟩⟩
  case eq => simpa using EndsAt.skipIf s (s.getV x == s.getV y)
  case ne => simpa using EndsAt.skipIf s (s.getV x != s.getV y)

/-- Settles O26: a jump to a sum that does not wrap. -/
theorem jumpWithOffsetAddsV0 : Obligations.JumpWithOffsetAddsV0 := by
  unfold Obligations.JumpWithOffsetAddsV0
  exact ⟨decode_wordN_jpV0, fun nnn s =>
    ⟨_, exec_jpV0 nnn s, toNat_zextAddr_add_zextByte nnn (s.getV 0), .jumpTo s _⟩⟩

/-! ### CALL and RET (R74, R76) -/

/-- The state a return to the entry `k` leaves, `last_cond` aside. -/
def State.returned (s : State) (k : Fin 16) : State :=
  { s with sp := k.castSucc, pc := s.stack.get k }

theorem exec_call (nnn : Addr) (s : State) (h : s.sp.val < 16) :
    exec (.call nnn) s = .next (effect s (.call nnn)).quiet := by
  refine exec_of_not_raises s _ fun c info hr => ?_
  cases hr with
  | call _ hfull => omega
  | data _ hlen => simp [transferLen] at hlen

theorem exec_ret (u : Nibble) (s : State) (k : Fin 16) (h : s.sp.val = k.val + 1) :
    exec (.ret u) s = .next (s.returned k).quiet := by
  simp only [exec, execRet, s.pop_some k h]
  rfl

/-- Writes of the stack, of sp and of pc are what the frame of CALL and RET allows. -/
theorem ChangesOnly.setStack (s : State) (stk : Vector Word 16) (n : Fin 17) (a : Word) :
    ChangesOnly { stack := true } s { s with stack := stk, sp := n, pc := a } :=
  ⟨fun _ _ => rfl, fun _ _ => rfl, fun _ => rfl, nofun, fun _ => ⟨rfl, rfl⟩, rfl, fun _ => rfl, fun _ => rfl,
    fun _ => ⟨rfl, rfl, rfl⟩, rfl, rfl, fun _ => rfl⟩

theorem EndsAt.call (s : State) (nnn : Addr) :
    EndsAt (zextAddr nnn) { stack := true } s (effect s (.call nnn)).quiet :=
  .of_done _ s (effect s (.call nnn)) (.setStack s _ _ _)

theorem EndsAt.returned (s : State) (k : Fin 16) :
    EndsAt (s.stack.get k) { stack := true } s (s.returned k).quiet :=
  .of_done _ s (s.returned k) (.setStack s _ _ _)

/-- Settles O27: the push finds room, or the condition of a full stack is raised before anything is written. -/
theorem callPushesReturnAddress : Obligations.CallPushesReturnAddress := by
  unfold Obligations.CallPushesReturnAddress
  refine ⟨decode_wordN_call, fun nnn s => ⟨fun h => ?room, fun h => ?full⟩⟩
  case room =>
    exact ⟨_, exec_call nnn s h, toNat_zextAddr nnn, min_eq_left h, effect_call_stack s nnn h, .call s nnn⟩
  case full => exact exec_of_raises s _ _ _ (.call nnn h)

/-- Settles O28: the pop leaves the entry in the stack, or the condition of an empty stack is raised. -/
theorem returnPopsIntoPc : Obligations.ReturnPopsIntoPc := by
  unfold Obligations.ReturnPopsIntoPc
  refine ⟨decode_wordZ_ret, fun u s => ⟨fun k h => ?entry, fun h => ?empty⟩⟩
  case entry => exact ⟨_, exec_ret u s k h, rfl, rfl, .returned s k⟩
  case empty => exact exec_of_raises s _ _ _ (.ret u h)

/-- Settles O29: the entry the call wrote is the one that the return reads, and the ones below it were not touched. -/
theorem returnUndoesCall : Obligations.ReturnUndoesCall := by
  unfold Obligations.ReturnUndoesCall
  intro nnn u s t m hroom hcall hstack hsp
  obtain rfl : (effect s (.call nnn)).quiet = t := by simpa [exec_call nnn s hroom] using hcall
  have hget : ∀ k : Fin 16, m.stack.get k = if k.val = s.sp.val then s.pc else s.stack.get k :=
    fun k => hstack ▸ effect_call_stack s nnn hroom k
  have hsp' : m.sp.val = s.sp.val + 1 := (congrArg Fin.val hsp).trans (min_eq_left hroom)
  refine ⟨_, exec_ret u m ⟨s.sp.val, hroom⟩ hsp', ?pc, rfl, fun k hk => ?below⟩
  case pc => exact (hget _).trans (if_pos rfl)
  case below => exact (hget k).trans (if_neg hk.ne)

/-! ### SYS and the self-jump (R73, R145) -/

theorem EndsAt.same (s : State) : EndsAt s.pc {} s s.quiet :=
  .of_done {} s s (.refl {} s)

theorem exec_sys (nnn : Addr) (s : State) (h : s.params.sysReportsUnknown = false) :
    exec (.sys nnn) s = .next s.quiet := by
  simp [exec, execSys, h, done]

/-- Settles O30: with the parameter off nothing is written but `last_cond`, with it on a condition is raised that is not
fatal. -/
theorem sysHasNoEffect : Obligations.SysHasNoEffect := by
  unfold Obligations.SysHasNoEffect
  refine ⟨decode_wordN_sys, fun nnn s => ⟨fun h => ?off, fun h => ?on⟩⟩
  case off => exact ⟨_, exec_sys nnn s h, .same s⟩
  case on => exact exec_of_raises s _ _ _ (.sys nnn h)

theorem zextAddr_setWidth (a : Word) (h : a.toNat ≤ 0xFFE) : zextAddr (a.setWidth 12) = a := by
  apply BitVec.eq_of_toNat_eq
  rw [toNat_zextAddr, BitVec.toNat_setWidth]
  omega

/-- Settles O31: the operand of the jump is all of pc, since the fetch was in range. -/
theorem selfJumpIdles : Obligations.SelfJumpIdles := by
  unfold Obligations.SelfJumpIdles
  intro s hhalted hjump
  have hh : s.halt = .none := by simpa [State.halted] using hhalted
  obtain ⟨hrange, hword⟩ : s.fetchOutOfRange = false ∧ s.fetchWord = wordN 0x1 (s.pc.setWidth 12) := by
    simpa [State.atSelfJump] using hjump
  have hpc := s.fetchOutOfRange_eq_false.1 hrange
  have hd : decode s.fetchWord = .ok (.jp (s.pc.setWidth 12)) := hword ▸ decode_wordN_jp _
  rw [step_decoded s _ hh hpc hd, exec_jp, zextAddr_setWidth s.pc hpc]
  rfl

end Sys2Proof.Machine
end

section
/-! SUPPORT. The operations that write VF, and the random byte (42_alu.md R89 to R94): what each flag computation gives as
natural numbers, where an instruction of the family ends, and the statements settled from them. -/

namespace Sys2Proof.Machine

/-! ### The flag computations (R89 to R93) -/

theorem flagByte_eq_ite (p : Prop) [Decidable p] : flagByte (decide p) = if p then 1 else 0 := by
  by_cases h : p <;> simp [flagByte, h]

theorem toNat_flagByte (b : Bool) : (flagByte b).toNat = b.toNat := by
  cases b <;> rfl

theorem toNat_addCarry (a b : Byte) : (addCarry a b).1.toNat = (a.toNat + b.toNat) % 256 :=
  BitVec.toNat_ofNat _ _

theorem addCarry_flag (a b : Byte) : (addCarry a b).2 = if 255 < a.toNat + b.toNat then 1 else 0 :=
  flagByte_eq_ite _

theorem toNat_subNoBorrow (a b : Byte) : ((subNoBorrow a b).1.toNat : Int) = (a.toNat - b.toNat : Int) % 256 := by
  have := a.isLt
  have := b.isLt
  simp only [subNoBorrow, BitVec.toNat_sub]
  omega

theorem subNoBorrow_flag (a b : Byte) : (subNoBorrow a b).2 = if b.toNat ≤ a.toNat then 1 else 0 :=
  flagByte_eq_ite _

theorem toNat_shiftRight1 (a : Byte) : (shiftRight1 a).1.toNat = a.toNat / 2 := by
  simp [shiftRight1, Nat.shiftRight_eq_div_pow]

theorem toNat_shiftRight1_flag (a : Byte) : (shiftRight1 a).2.toNat = a.toNat % 2 := by
  have hbit : (a.getLsbD 0).toNat = a.toNat / 2 ^ 0 % 2 := Nat.toNat_testBit _ _
  rw [shiftRight1, toNat_flagByte, hbit, pow_zero, Nat.div_one]

theorem toNat_shiftLeft1 (a : Byte) : (shiftLeft1 a).1.toNat = a.toNat * 2 % 256 := by
  simp [shiftLeft1, Nat.shiftLeft_eq]

theorem toNat_shiftLeft1_flag (a : Byte) : (shiftLeft1 a).2.toNat = a.toNat / 128 := by
  have hbit : (a.getLsbD 7).toNat = a.toNat / 2 ^ 7 % 2 := Nat.toNat_testBit _ _
  have := a.isLt
  rw [shiftLeft1, toNat_flagByte, hbit]
  omega

/-! ### Where a flagged operation ends (R82, R95) -/

theorem State.getV_setFlagged_flag (s : State) (x : RegIdx) (p : Byte × Byte) : (s.setFlagged x p).getV VF = p.2 := by
  simp

theorem State.getV_setFlagged_dest (s : State) (x : RegIdx) (p : Byte × Byte) (h : x ≠ VF) :
    (s.setFlagged x p).getV x = p.1 := by
  simp [h]

theorem exec_addXY (x y : RegIdx) (s : State) :
    exec (.addXY x y) s = .next (s.setFlagged x (addCarry (s.getV x) (s.getV y))).quiet := rfl

theorem exec_sub (x y : RegIdx) (s : State) :
    exec (.sub x y) s = .next (s.setFlagged x (subNoBorrow (s.getV x) (s.getV y))).quiet := rfl

theorem exec_subn (x y : RegIdx) (s : State) :
    exec (.subn x y) s = .next (s.setFlagged x (subNoBorrow (s.getV y) (s.getV x))).quiet := rfl

theorem exec_shr (x y : RegIdx) (s : State) :
    exec (.shr x y) s = .next (s.setFlagged x (shiftRight1 (s.shiftSource x y))).quiet := rfl

theorem exec_shl (x y : RegIdx) (s : State) :
    exec (.shl x y) s = .next (s.setFlagged x (shiftLeft1 (s.shiftSource x y))).quiet := rfl

/-- What one flagged operation has to answer, from its equation and what its flag computation gives: `P` of the result,
`Q` of the flag. -/
theorem exec_flagged (i : Instr) (x : RegIdx) (p : Byte × Byte) (s : State) (P Q : Byte → Prop)
    (he : exec i s = .next (s.setFlagged x p).quiet) (hP : P p.1) (hQ : Q p.2) :
    ∃ t, exec i s = .next t ∧ (x ≠ VF → P (t.getV x)) ∧ Q (t.getV VF) ∧ EndsAt s.pc { regs := [x, VF] } s t :=
  ⟨_, he, fun h => (s.getV_setFlagged_dest x p h).symm ▸ hP, (s.getV_setFlagged_flag x p).symm ▸ hQ,
    .setFlagged s x p⟩

/-! ### The statements on the flag -/

/-- Settles O34: the carry of the sum, written after the sum. -/
theorem addSetsCarry : Obligations.AddSetsCarry := by
  unfold Obligations.AddSetsCarry
  refine ⟨fun x y => decode_wordXYN_addXY x.toFin y.toFin, fun x y s => ?_⟩
  exact exec_flagged _ x _ s (fun r => r.toNat = _) (· = _) (exec_addXY x y s) (toNat_addCarry _ _) (addCarry_flag _ _)

/-- Settles O35: 8xy7 is 8xy5 with the operands exchanged. -/
theorem subtractionsSetNoBorrow : Obligations.SubtractionsSetNoBorrow := by
  unfold Obligations.SubtractionsSetNoBorrow
  refine ⟨fun x y => decode_wordXYN_sub x.toFin y.toFin, fun x y => decode_wordXYN_subn x.toFin y.toFin,
    fun x y s => ⟨?sub, ?subn⟩⟩
  case sub =>
    exact exec_flagged _ x _ s (fun r => (r.toNat : Int) = _) (· = _) (exec_sub x y s) (toNat_subNoBorrow _ _)
      (subNoBorrow_flag _ _)
  case subn =>
    exact exec_flagged _ x _ s (fun r => (r.toNat : Int) = _) (· = _) (exec_subn x y s) (toNat_subNoBorrow _ _)
      (subNoBorrow_flag _ _)

theorem toNat_shiftSource (s : State) (x y : RegIdx) :
    (s.shiftSource x y).toNat = if s.params.shiftReadsVy then (s.getV y).toNat else (s.getV x).toNat := by
  unfold State.shiftSource
  split <;> rfl

/-- Settles O36: both shifts work on the one source that the parameter selects. -/
theorem shiftsSetTheBitShiftedOut : Obligations.ShiftsSetTheBitShiftedOut := by
  unfold Obligations.ShiftsSetTheBitShiftedOut
  refine ⟨fun x y => decode_wordXYN_shr x.toFin y.toFin, fun x y => decode_wordXYN_shl x.toFin y.toFin,
    fun x y s src hsrc => ?_⟩
  rw [← toNat_shiftSource] at hsrc
  subst hsrc
  constructor
  · exact exec_flagged _ x _ s (fun r => r.toNat = _) (fun r => r.toNat = _) (exec_shr x y s) (toNat_shiftRight1 _)
      (toNat_shiftRight1_flag _)
  · exact exec_flagged _ x _ s (fun r => r.toNat = _) (fun r => r.toNat = _) (exec_shl x y s) (toNat_shiftLeft1 _)
      (toNat_shiftLeft1_flag _)

/-! ### The random byte (R94) -/

/-- A random byte leaves pc at p + 2 and changes its register and the count of draws alone, so not VF as a flag. -/
theorem EndsAt.random (s : State) (x : RegIdx) (b : Byte) :
    EndsAt s.pc { regs := [x], draws := true } s (s.setV x b).drawTaken.quiet := by
  have h := ChangesOnly.setV { regs := [x], draws := true } s x b (by simp)
  exact .of_done _ s (s.setV x b).drawTaken
    ⟨h.regs, h.mem, h.I, h.stack, h.timers, h.key, h.disp, h.dirty, h.status, h.params, rfl, nofun⟩

theorem exec_rnd (x : RegIdx) (nn : Byte) (s : State) :
    exec (.rnd x nn) s = .next (s.setV x (s.entropyDraw &&& nn)).drawTaken.quiet := rfl

theorem entropyDraw_of_drawIn (s : State) (r : Byte) (h : s.drawIn = some r) : s.entropyDraw = r := by
  simp [State.entropyDraw, h]

/-- Settles O37: the draw is the host's byte where there is one, and the mask leaves no bit outside `nn`. -/
theorem randomByteIsMasked : Obligations.RandomByteIsMasked := by
  unfold Obligations.RandomByteIsMasked
  refine ⟨fun x nn => decode_wordXNN_rnd x.toFin nn, fun x nn s => ?_⟩
  have hx : ((s.setV x (s.entropyDraw &&& nn)).drawTaken.quiet).getV x = s.entropyDraw &&& nn :=
    s.getV_setV_same x _
  refine ⟨_, exec_rnd x nn s, hx, ?masked, fun r hr => ?host, .random s x _⟩
  case masked => rw [hx, BitVec.and_assoc]; simp
  case host => rw [hx, entropyDraw_of_drawIn s r hr]

/-- Settles O38: the verb puts its byte where the draw looks first, and takes it out again. -/
theorem stepVerbSuppliesTheDraw : Obligations.StepVerbSuppliesTheDraw := by
  unfold Obligations.StepVerbSuppliesTheDraw
  intro s r x nn hh hpc hd
  have hstep := (step_decoded { s with drawIn := some r } _ hh hpc hd).trans (exec_rnd x nn _)
  have hends := EndsAt.random s.advance x (r &&& nn)
  refine ⟨(s.advance.setV x (r &&& nn)).drawTaken.quiet, (stepVerb_of_step s _ r hstep).trans ?_,
    s.advance.getV_setV_same x _, hends.pc, hends.quiet, .of_advance _ _ _ hends.frame⟩
  rw [reported, if_neg (not_not.2 hh)]
  rfl

end Sys2Proof.Machine
end

section
/-! SUPPORT. The font address and the memory transfers (43_index_memory.md R98 to R101): where each ends in range and out
of range, what is read back after a store, and the statements settled from them. -/

namespace Sys2Proof.Machine

/-! ### The font address (R98) -/

theorem exec_ldFX (x : RegIdx) (s : State) : exec (.ldFX x) s = .next (s.setI (5 * zextByte (s.getV x))).quiet := rfl

theorem toNat_five_mul_zextByte (b : Byte) : (5 * zextByte b).toNat = 5 * b.toNat := by
  have := b.isLt
  rw [BitVec.toNat_mul, toNat_zextByte]
  exact Nat.mod_eq_of_lt (show 5 * b.toNat < 2 ^ 16 by omega)

/-- Settles O40: five times a byte does not wrap at 2^16. -/
theorem fontAddressIsFiveTimesVx : Obligations.FontAddressIsFiveTimesVx := by
  unfold Obligations.FontAddressIsFiveTimesVx
  exact ⟨fun x => decode_wordXNN_ldFX x.toFin, fun x s =>
    ⟨_, exec_ldFX x s, toNat_five_mul_zextByte (s.getV x), .setI s _⟩⟩

/-! ### Storing at I -/

/-- A store at I is read back byte by byte (20_memory.md R37, R39). -/
theorem State.read_store_at_I (s : State) (bs : List Byte) (k : Nat) (h : k < bs.length) :
    (s.store (s.dataAddr 0) bs).mem.read (s.I.toNat + k) = bs[k] :=
  Memory.read_writeBytes_inside s.mem (s.dataAddr 0) bs k h

/-! ### The decimal digits (R99) -/

theorem exec_ldBX_inRange (x : RegIdx) (s : State) (h : s.I.toNat + 2 ≤ 0xFFF) :
    exec (.ldBX x) s = .next (s.store (s.dataAddr 0) (bcdDigits (s.getV x))).quiet :=
  (exec_ldBX x s).trans (s.accessing_inRange _ _ _ (.inr (by omega)))

theorem EndsAt.storeDigits (s : State) (b : Byte) :
    EndsAt s.pc { bytes := [s.I.toNat, s.I.toNat + 1, s.I.toNat + 2] } s
      (s.store (s.dataAddr 0) (bcdDigits b)).quiet := by
  refine .of_done _ s (s.store _ _) (.store _ s _ _ fun k hk => ?_)
  have : k < 3 := hk
  simp [State.dataAddr]
  omega

/-- Digit `d` of Vx, small enough for a byte, is read back where it was stored. -/
theorem State.toNat_read_digit (s : State) (b : Byte) (k d : Nat) (hk : k < (bcdDigits b).length) (hd : d < 256)
    (h : (bcdDigits b)[k] = BitVec.ofNat 8 d) :
    ((s.store (s.dataAddr 0) (bcdDigits b)).mem.read (s.I.toNat + k)).toNat = d := by
  rw [s.read_store_at_I _ k hk, h]
  exact Nat.mod_eq_of_lt hd

/-- Settles O41: three bytes stored at I, each digit small enough for a byte. -/
theorem bcdStoresThreeDigits : Obligations.BcdStoresThreeDigits := by
  unfold Obligations.BcdStoresThreeDigits
  refine ⟨fun x => decode_wordXNN_ldBX x.toFin, fun x s h =>
    ⟨_, exec_ldBX_inRange x s h, ?hundreds, ?tens, ?units, .storeDigits s (s.getV x)⟩⟩
  all_goals have := (s.getV x).isLt
  case hundreds => exact s.toNat_read_digit (s.getV x) 0 _ (by simp) (by omega) rfl
  case tens => exact s.toNat_read_digit (s.getV x) 1 _ (by simp) (by omega) rfl
  case units => exact s.toNat_read_digit (s.getV x) 2 _ (by simp) (by omega) rfl

/-! ### The register dump and load (R100, R101) -/

theorem exec_ldMemX_inRange (x : RegIdx) (s : State) (h : s.I.toNat + x.val ≤ 0xFFF) :
    exec (.ldMemX x) s = .next ((s.store (s.dataAddr 0) (s.regsUpTo x)).advanceI (x.val + 1)).quiet :=
  s.accessing_inRange (x.val + 1) (encode (.ldMemX x)) _ (.inr (by omega))

theorem exec_ldXMem_inRange (x : RegIdx) (s : State) (h : s.I.toNat + x.val ≤ 0xFFF) :
    exec (.ldXMem x) s = .next ((s.loadRegs x).advanceI (x.val + 1)).quiet :=
  s.accessing_inRange (x.val + 1) (encode (.ldXMem x)) _ (.inr (by omega))

theorem State.toNat_I_advanceI (s : State) (n : Nat) : (s.advanceI (n + 1)).I.toNat =
    if s.params.loadstoreAdvancesI then (s.I.toNat + n + 1) % 2 ^ 16 else s.I.toNat := by
  rw [State.advanceI_I]
  split
  · simp [BitVec.toNat_add, Nat.add_assoc]
  · rfl

/-- The dump leaves Vk at I + k. -/
theorem State.read_dump (s : State) (x k : RegIdx) (h : k ≤ x) :
    (s.store (s.dataAddr 0) (s.regsUpTo x)).mem.read (s.I.toNat + k.val) = s.getV k := by
  rw [s.read_store_at_I (s.regsUpTo x) k.val (s.length_regsUpTo x ▸ Nat.lt_succ_of_le h), s.getElem_regsUpTo]

/-- Settles O42: the bytes of the dump are V0 to Vx in order, and I moves after the store. -/
theorem dumpStoresRegisters : Obligations.DumpStoresRegisters := by
  unfold Obligations.DumpStoresRegisters
  refine ⟨fun x => decode_wordXNN_ldMemX x.toFin, fun x s h =>
    ⟨_, exec_ldMemX_inRange x s h, fun k hk => ?bytes, ?index, ?frame⟩⟩
  case bytes => simpa using s.read_dump x k hk
  case index => exact State.toNat_I_advanceI (s.store _ _) x.val
  case frame =>
    rw [← State.store_pc s (s.dataAddr 0) (s.regsUpTo x), ← State.advanceI_pc _ (x.val + 1)]
    refine .of_done _ s _ (.advanceI _ s _ _ rfl (.store _ s _ _ fun k hk => ?_))
    have : k < x.val + 1 := by simpa using hk
    simp [State.dataAddr]
    omega

/-- Settles O43: every register up to x is read before I moves. -/
theorem loadReadsRegisters : Obligations.LoadReadsRegisters := by
  unfold Obligations.LoadReadsRegisters
  refine ⟨fun x => decode_wordXNN_ldXMem x.toFin, fun x s h =>
    ⟨_, exec_ldXMem_inRange x s h, fun k => ?regs, ?index, ?frame⟩⟩
  case regs => simp [State.dataAddr]
  case index => exact State.toNat_I_advanceI (s.loadRegs x) x.val
  case frame =>
    rw [← State.loadRegs_pc s x, ← State.advanceI_pc _ (x.val + 1)]
    refine .of_done _ s _ (.advanceI _ s _ _ rfl ?_)
    constructor <;> simp
    intro r h1 h2
    exact absurd h2 (not_le.2 h1)

/-- Settles O44: the load finds at I + k the byte that the dump left there. -/
theorem loadAfterDumpRestoresRegisters : Obligations.LoadAfterDumpRestoresRegisters := by
  unfold Obligations.LoadAfterDumpRestoresRegisters
  intro x s t m r h hdump hmem hI hload k
  rw [exec_ldMemX_inRange x s h] at hdump
  cases hdump
  rw [exec_ldXMem_inRange x m (hI.symm ▸ h)] at hload
  cases hload
  rw [State.quiet_getV, State.advanceI_getV, State.getV_loadRegs]
  split
  case isTrue hk => simpa [State.dataAddr, hmem, hI] using s.read_dump x k hk
  case isFalse => rfl

/-! ### Out of range (R34, R117) -/

/-- A transfer that would pass 0xFFF records the condition and does nothing else. -/
theorem exec_outOfRange (i : Instr) (s : State) (h0 : 0 < transferLen i) (h : 0x1000 < s.I.toNat + transferLen i) :
    exec i s = .next { s with
      lastCond := .memoryOutOfBounds, seen := s.seen ||| 0b1000#4
      lastInfo := { pc := s.pc - 2, word := encode i, kind := .data, addr := max s.I.toNat 0x1000 } } :=
  exec_of_raises s i _ _ (.data i h0 h)

/-- Settles O45: the four differ in the number of bytes alone, which is what the range check asks for. -/
theorem outOfRangeTransferHasNoEffect : Obligations.OutOfRangeTransferHasNoEffect := by
  unfold Obligations.OutOfRangeTransferHasNoEffect
  rintro s t x y n w rfl
  refine ⟨?digits, ?dump, ?load, ?draw⟩
  case digits => rintro h rfl; exact exec_outOfRange (.ldBX x) s (by simp [transferLen]) (by simp [transferLen]; omega)
  case dump => rintro h rfl; exact exec_outOfRange (.ldMemX x) s (by simp [transferLen]) (by simp [transferLen]; omega)
  case load => rintro h rfl; exact exec_outOfRange (.ldXMem x) s (by simp [transferLen]) (by simp [transferLen]; omega)
  case draw => rintro h0 h rfl; exact exec_outOfRange (.drw x y n) s h0 (by simp [transferLen]; omega)

/-! ### Code that is written (R46, R147) -/

/-- Settles O46: pc stands where I stood, so the fetch reads the first two bytes of the dump. -/
theorem storeIsSeenByTheNextFetch : Obligations.StoreIsSeenByTheNextFetch := by
  unfold Obligations.StoreIsSeenByTheNextFetch
  intro x s t hx hI h hdump
  rw [exec_ldMemX_inRange x s h] at hdump
  cases hdump
  have hhi := s.read_dump x 0 (Fin.zero_le x)
  have hlo := s.read_dump x 1 hx
  simp only [State.fetchWord, State.quiet_pc, State.quiet_mem, State.advanceI_pc, State.advanceI_mem, State.store_pc,
    ← hI]
  exact congrArg₂ joinBytes hhi hlo

end Sys2Proof.Machine
end

section
/-! SUPPORT. The draw (44_display.md R102, R104 to R106): what one draw leaves in each cell and in VF, said with the set
of covered cells, and the statements settled from it. -/

namespace Sys2Proof.Machine

/-! ### What one draw does (R104, R105) -/

theorem spriteRowsCover_iff (s : State) (x y : RegIdx) (n : Fin 16) (cy : Fin 32) (cx : Fin 64) :
    spriteRowsCover (s.spriteBytes n) ((s.getV x).toNat % 64) ((s.getV y).toNat % 32) cy cx ↔
      s.spriteCovers x y n cy cx := by
  have hbyte : ∀ (r : Nat) (h : r < (s.spriteBytes n).length), (s.spriteBytes n)[r] = s.mem.read (s.I.toNat + r) :=
    Memory.getElem_readBytes s.mem s.I.toNat n.val
  constructor
  · rintro ⟨r, hr, hy, k, hk, hbit, hx⟩
    exact ⟨r, s.length_spriteBytes n ▸ hr, k, hk, hbyte r hr ▸ hbit, hx, hy⟩
  · rintro ⟨r, hr, k, hk, hbit, hx, hy⟩
    have hr' : r < (s.spriteBytes n).length := (s.length_spriteBytes n).symm ▸ hr
    exact ⟨r, hr', hy, k, hk, (hbyte r hr').symm ▸ hbit, hx⟩

theorem length_spriteBytes_le (s : State) (n : Fin 16) : (s.spriteBytes n).length ≤ 32 := by
  rw [s.length_spriteBytes]
  omega

/-- The display becomes its exclusive or with the covered cells. -/
theorem State.cell_drawn (s : State) (x y : RegIdx) (n : Fin 16) (cy : Fin 32) (cx : Fin 64) :
    (s.drawn x y n).1.cell cy cx = true ↔ ¬ (s.disp.cell cy cx = true ↔ s.spriteCovers x y n cy cx) := by
  rw [← spriteRowsCover_iff]
  exact (drawSprite_spec _ _ _ (s.disp, false) (length_spriteBytes_le s n)).1 cy cx

/-- There is a collision exactly when a lit cell is covered. -/
theorem State.collision_drawn (s : State) (x y : RegIdx) (n : Fin 16) :
    (s.drawn x y n).2 = true ↔ ∃ cy cx, s.disp.cell cy cx = true ∧ s.spriteCovers x y n cy cx := by
  simp only [← spriteRowsCover_iff, State.drawn]
  simpa using (drawSprite_spec _ _ _ (s.disp, false) (length_spriteBytes_le s n)).2

/-! ### Where a draw in range ends -/

theorem exec_drw_inRange (x y : RegIdx) (n : Fin 16) (s : State) (h : n.val = 0 ∨ s.I.toNat + n.val - 1 ≤ 0xFFF) :
    exec (.drw x y n) s = .next ((s.setV VF (flagByte (s.drawn x y n).2)).show (s.drawn x y n).1).quiet :=
  (exec_drw x y n s).trans (s.accessing_inRange _ _ _ (by omega))

theorem EndsAt.drawn (s : State) (b : Byte) (d : Display) :
    EndsAt s.pc { regs := [VF], disp := true, dirty := true } s ((s.setV VF b).show d).quiet := by
  have h := ChangesOnly.setV { regs := [VF], disp := true, dirty := true } s VF b (by simp)
  exact .of_done _ s ((s.setV VF b).show d)
    ⟨h.regs, h.mem, h.I, h.stack, h.timers, h.key, nofun, nofun, h.status, h.params, h.draws⟩

/-- VF after a draw is the collision. -/
theorem State.getV_VF_drawn (s : State) (b : Bool) (d : Display) :
    ((s.setV VF (flagByte b)).show d).quiet.getV VF = flagByte b :=
  s.getV_setV_same VF (flagByte b)

/-- Settles O48: the draw in terms of the covered cells, where no two pixels meet. -/
theorem drawXorsTheSprite : Obligations.DrawXorsTheSprite := by
  unfold Obligations.DrawXorsTheSprite
  refine ⟨fun x y n => decode_wordXYN_drw x.toFin y.toFin n.toFin, fun x y n s h =>
    ⟨_, exec_drw_inRange x y n s h, s.cell_drawn x y n, fun hlit => ?hit, fun hclear => ?miss, rfl, .drawn s _ _⟩⟩
  case hit =>
    rw [s.getV_VF_drawn, flagByte_eq_one]
    exact (s.collision_drawn x y n).2 hlit
  case miss =>
    rw [s.getV_VF_drawn, flagByte_eq_zero, ← Bool.not_eq_true, s.collision_drawn x y n]
    rintro ⟨cy, cx, hlit, hcov⟩
    exact hclear cy cx hlit hcov

/-! ### Two equal draws (R106) -/

theorem Display.ext_cell {d d' : Display} (h : ∀ y x, d.cell y x = d'.cell y x) : d = d' := by
  apply Vector.ext
  intro y hy
  apply Vector.ext
  intro x hx
  simpa [Display.cell, Vector.get_eq_getElem] using h ⟨y, hy⟩ ⟨x, hx⟩

/-- The covered cells depend on memory, I and the two coordinate registers alone. -/
theorem State.spriteCovers_congr {s m : State} {x y : RegIdx} (n : Fin 16) (hmem : m.mem = s.mem) (hI : m.I = s.I)
    (hx : m.getV x = s.getV x) (hy : m.getV y = s.getV y) (cy : Fin 32) (cx : Fin 64) :
    m.spriteCovers x y n cy cx ↔ s.spriteCovers x y n cy cx := by
  unfold State.spriteCovers
  rw [hmem, hI, hx, hy]

theorem byte_ne_zero_iff (b : Byte) : b ≠ 0 ↔ ∃ c < 8, b.getLsbD (7 - c) = true := by
  constructor
  · intro hb
    by_contra hno
    refine hb (BitVec.eq_of_getLsbD_eq fun i hi => ?_)
    have hbit : b.getLsbD i ≠ true := fun hbit =>
      hno ⟨7 - i, by omega, (show 7 - (7 - i) = i by omega).symm ▸ hbit⟩
    simpa using hbit
  · rintro ⟨c, -, hbit⟩ rfl
    simp at hbit

/-- A sprite covers some cell exactly when one of its bytes has a 1 bit. -/
theorem State.exists_spriteCovers_iff (s : State) (x y : RegIdx) (n : Fin 16) :
    (∃ cy cx, s.spriteCovers x y n cy cx) ↔ ∃ k < n.val, s.mem.read (s.I.toNat + k) ≠ 0 := by
  constructor
  · rintro ⟨cy, cx, r, hr, c, hc, hbit, -⟩
    exact ⟨r, hr, (byte_ne_zero_iff _).2 ⟨c, hc, hbit⟩⟩
  · rintro ⟨r, hr, hne⟩
    obtain ⟨c, hc, hbit⟩ := (byte_ne_zero_iff _).1 hne
    exact ⟨Fin.ofNat 32 ((s.getV y).toNat % 32 + r), Fin.ofNat 64 ((s.getV x).toNat % 64 + c), r, hr, c, hc, hbit,
      rfl, rfl⟩

/-- Settles O49: the exclusive or with the same set undoes itself, and on a display that met no covered cell the second
draw finds each of them lit. -/
theorem drawTwiceRestoresTheDisplay : Obligations.DrawTwiceRestoresTheDisplay := by
  unfold Obligations.DrawTwiceRestoresTheDisplay
  intro x y n s t m r h hfirst hdisp hmem hI hx hy hsecond
  rw [exec_drw_inRange x y n s h] at hfirst
  cases hfirst
  rw [exec_drw_inRange x y n m (hI.symm ▸ h)] at hsecond
  cases hsecond
  have hcov := State.spriteCovers_congr n hmem hI hx hy
  have hbetween : ∀ cy cx, m.disp.cell cy cx = true ↔ ¬ (s.disp.cell cy cx = true ↔ s.spriteCovers x y n cy cx) :=
    fun cy cx => hdisp ▸ s.cell_drawn x y n cy cx
  constructor
  · refine Display.ext_cell fun cy cx => Bool.eq_iff_iff.2 ?_
    refine (m.cell_drawn x y n cy cx).trans ?_
    rw [hbetween, hcov]
    tauto
  · intro hclear
    rw [m.getV_VF_drawn, flagByte_eq_one, m.collision_drawn, ← s.exists_spriteCovers_iff x y]
    refine exists_congr fun cy => exists_congr fun cx => ?_
    have := hclear cy cx
    rw [hbetween, hcov]
    tauto

end Sys2Proof.Machine
end

section
/-! SUPPORT. The key tests, the key wait and the sound timer (45_keypad_timers.md R107 to R109, R111, R113): where each
ends, and the statements settled from them. -/

namespace Sys2Proof.Machine

/-! ### The key tests (R107 to R109) -/

theorem exec_skp (x : RegIdx) (s : State) : exec (.skp x) s = .next (s.skipIf (s.keySelected x)).quiet := rfl

theorem exec_sknp (x : RegIdx) (s : State) : exec (.sknp x) s = .next (s.skipIf (!s.keySelected x)).quiet := rfl

/-- The low nibble of Vx is Vx modulo 16. -/
theorem State.keySelected_eq (s : State) (x k : RegIdx) (h : k.val = (s.getV x).toNat % 16) :
    s.keySelected x = s.key.get k := by
  have hk : ((s.getV x).extractLsb' 0 4).toFin = k := Fin.ext (by simp [h])
  rw [State.keySelected, hk]

/-- A skip on a negated condition has its two targets exchanged. -/
theorem EndsAt.skipIf_not (s : State) (c : Bool) : EndsAt (if c then s.pc else s.pc + 2) {} s (s.skipIf !c).quiet := by
  cases c with
  | true => exact .skipIf s false
  | false => exact .skipIf s true

/-- Settles O50: both are `skipIf` on the selected key, ExA1 on its negation, so its two targets are exchanged. -/
theorem keySkipsTestTheSelectedKey : Obligations.KeySkipsTestTheSelectedKey := by
  unfold Obligations.KeySkipsTestTheSelectedKey
  refine ⟨fun x => decode_wordXNN_skp x.toFin, fun x => decode_wordXNN_sknp x.toFin,
    fun x k s hk => ⟨⟨_, exec_skp x s, ?down⟩, ⟨_, exec_sknp x s, ?up⟩⟩⟩
  all_goals rw [s.keySelected_eq x k hk]
  case down => exact .skipIf s (s.key.get k)
  case up => exact .skipIf_not s (s.key.get k)

/-! ### The key wait (R111) -/

theorem exec_ldXK_some (x k : RegIdx) (s : State) (h : s.firstKey = some k) :
    exec (.ldXK x) s = .next (s.setV x (BitVec.ofNat 8 k.val)).quiet := by
  simp only [exec, execLdXK, h]
  rfl

theorem exec_ldXK_none (x : RegIdx) (s : State) (h : s.firstKey = none) :
    exec (.ldXK x) s = .next (s.jumpTo (s.pc - 2)).quiet := by
  simp only [exec, execLdXK, h]
  rfl

/-- Settles O53: the search from key 0 up finds the least key, whose number fits in a byte. -/
theorem keyWaitTakesTheLeastKey : Obligations.KeyWaitTakesTheLeastKey := by
  unfold Obligations.KeyWaitTakesTheLeastKey
  refine ⟨fun x => decode_wordXNN_ldXK x.toFin, fun x s => ⟨fun k hk hleast => ?some, fun hnone => ?none⟩⟩
  case some =>
    refine ⟨_, exec_ldXK_some x k s (s.firstKey_some k hk hleast), ?_, .setV s x _⟩
    refine (congrArg BitVec.toNat (s.getV_setV_same x _)).trans (Nat.mod_eq_of_lt ?_)
    exact lt_trans k.isLt (by decide)
  case none => exact exec_ldXK_none x s (s.firstKey_none.2 hnone)

/-- Settles O54: the wait takes back the base advance. -/
theorem keyWaitStaysInPlace : Obligations.KeyWaitStaysInPlace := by
  unfold Obligations.KeyWaitStaysInPlace
  intro s x hh hpc hd hnone
  rw [step_decoded s _ hh hpc hd, exec_ldXK_none x s.advance (s.advance.firstKey_none.2 hnone)]
  have hback : s.advance.pc - 2 = s.pc := s.advance_instrAddr
  rw [hback]
  rfl

/-! ### The sound timer (R113, R126) -/

theorem ChangesOnly.setST (T : Touched) (s : State) (b : Byte) (h : T.timers = true) : ChangesOnly T s (s.setST b) := by
  constructor <;> simp [h]

/-- A write of ST leaves pc at p + 2 and changes the timers alone, so no register and no flag. -/
theorem EndsAt.setST (s : State) (b : Byte) : EndsAt s.pc { timers := true } s (s.setST b).quiet :=
  .of_done _ s (s.setST b) (.setST _ s b rfl)

theorem State.soundActive_iff (s : State) : s.soundActive = true ↔ s.ST ≠ 0 := by
  simp [State.soundActive]

/-- Settles O52: one write of ST, which keeps DT, and the tone level is a test of ST. -/
theorem soundTimerIsWritten : Obligations.SoundTimerIsWritten := by
  unfold Obligations.SoundTimerIsWritten
  exact ⟨fun x => decode_wordXNN_ldSTX x.toFin, fun x s =>
    ⟨_, exec_ldSTX x s, rfl, rfl, State.soundActive_iff _, .setST s (s.getV x)⟩⟩

end Sys2Proof.Machine
end

section
/-! SUPPORT. Ticks in a row, the reset, and the writes of the host (60_exceptions.md R125, R129, R131, R133;
70_reset_and_hazards.md R137), and the statements settled from them. -/

namespace Sys2Proof.Machine

/-! ### Ticks in a row (R125, R149) -/

theorem applyAll_tick_cons (s : State) (vs : List Verb) : s.applyAll (.tick :: vs) = s.tick.1.applyAll vs := rfl

/-- Settles O56, by induction on the number of ticks: subtraction on the naturals stops at zero as the count down does. -/
theorem ticksReachZero : Obligations.TicksReachZero := by
  unfold Obligations.TicksReachZero
  intro n
  induction n with
  | zero => exact fun s => ⟨s, rfl, rfl, rfl, rfl⟩
  | succ n ih =>
    intro s
    obtain ⟨t, ht, hframe, hDT, hST⟩ := ih s.tick.1
    refine ⟨t, ?run, ?frame, ?delay, ?sound⟩
    case run => rw [List.replicate_succ, applyAll_tick_cons, ht]
    case frame => rw [s.tick_frame] at hframe; exact hframe
    case delay => rw [hDT, State.tick_DT, toNat_countDown]; omega
    case sound => rw [hST, State.tick_ST, toNat_countDown]; omega

/-! ### The reset (R137) -/

/-- Under the reset an address reads as the font of the parameters below 0x050 and as 0 from there on. -/
theorem read_resetVerb (s : State) (a : Nat) :
    s.resetVerb.mem.read a = if h : a < 80 then s.params.font[a] else 0 := by
  have hlen : s.params.font.toList.length = 80 := by simp
  split
  case isTrue h =>
    have := Memory.read_writeBytes_inside [] 0 s.params.font.toList a (by rw [hlen]; exact h)
    simpa [State.resetVerb] using this
  case isFalse h =>
    have := Memory.read_writeBytes_outside [] 0 s.params.font.toList a (.inr (by omega))
    simpa [State.resetVerb, Memory.read, resetByte, h] using this

/-- Settles O57: but for memory and the fields it keeps, the reset verb gives the reset state. -/
theorem resetClearsEveryElement : Obligations.ResetClearsEveryElement := by
  unfold Obligations.ResetClearsEveryElement
  intro s
  refine ⟨rfl, read_resetVerb s, ?regs, rfl, rfl, ?stack, rfl, rfl, rfl, ?keys, ?cells, rfl, rfl, rfl, rfl, rfl, rfl, rfl,
    rfl⟩
  case regs => intro x; simp [State.resetVerb, State.reset, State.getV, Vector.get_eq_getElem]
  case stack => intro k; simp [State.resetVerb, State.reset, Vector.get_eq_getElem]
  case keys => intro k; simp [State.resetVerb, State.reset, Vector.get_eq_getElem]
  case cells => exact fun y x => Display.cell_clear y x

/-! ### The writes of the host and the observation (R129, R131, R133) -/

theorem apply_observe (s : State) : s.apply .observe = .next (s, .view s s.soundActive) := rfl

/-- Settles O59: each of the three verbs is one update or none. -/
theorem keyWriteAcknowledgeAndObserve : Obligations.KeyWriteAcknowledgeAndObserve := by
  unfold Obligations.KeyWriteAcknowledgeAndObserve
  refine fun s k b => ⟨⟨s.setKey k b, rfl, rfl, s.key_setKey k b⟩, rfl, ?observe⟩
  case observe =>
    have htone : s.soundActive = decide (s.ST ≠ 0) := Bool.eq_iff_iff.2 (by simp [s.soundActive_iff])
    rw [apply_observe, htone]

end Sys2Proof.Machine
end
